-- ==== Sys2Proof/Word.lean ====
section
/-! DEFINITION. The bit-vector widths FBCORE uses (00_scope.md R6, R9; 30_encoding.md R59, R60). -/

namespace Sys2Proof

/-- A command word: one 32-bit value, bit 31 the most significant (30_encoding.md R59). -/
abbrev Word := BitVec 32

/-- A cell, a port value, a configuration register (00_scope.md R6: `CELL_BITS` = `PORT_BITS` = 8). -/
abbrev Byte := BitVec 8

/-- A 4-bit field of a command word: OP, RA, CB or RSV (30_encoding.md R60). -/
abbrev Nibble := BitVec 4

/-- The 16-bit DATA field (30_encoding.md R65). -/
abbrev Data := BitVec 16

/-- A row or a column index of the addressed region, 0 to 7 (20_memory.md R43). -/
abbrev Index := BitVec 3

/-- A cell address, 0 to 63 (20_memory.md R44). -/
abbrev CellAddr := BitVec 6

end Sys2Proof
end

