-- ==== Sys2Proof/Syntax.lean ====
section
/-! DEFINITION. The commands of FBCORE-CMD32 (30_encoding.md R66) and the abstract syntax of the assembler (R71, R72). -/

namespace Sys2Proof

/-- One constructor per row of the opcode table. An operand is the field the command uses (30_encoding.md R66, R67):
`row` is RA, `col` is CB, `sel` is RA as a register select, `v` is DATA[7:0] (R65). Fields a command ignores are not part
of it (log entry 8). -/
inductive Instr where
  /-- OP 0x0 (40_framebuffer.md R74). -/
  | nop
  /-- OP 0x1: write one cell (40_framebuffer.md R75). -/
  | wr (row col : Nibble) (v : Byte)
  /-- OP 0x2: read one cell (40_framebuffer.md R76). -/
  | rd (row col : Nibble)
  /-- OP 0x3: set every cell (40_framebuffer.md R77). -/
  | fill (v : Byte)
  /-- OP 0x4: serialize one value (41_serializer.md R84). -/
  | emit (v : Byte)
  /-- OP 0x5: scan the framebuffer out (42_scanner.md R96). -/
  | refresh
  /-- OP 0x6: write a configuration register (43_config.md R105). -/
  | cfgw (sel : Nibble) (v : Byte)
  /-- OP 0x7: read a configuration register (43_config.md R108). -/
  | cfgr (sel : Nibble)
  /-- OP 0x8 to 0xF: reserved (30_encoding.md R68). No field of the word is examined (60_exceptions.md R116). -/
  | illegal
  deriving DecidableEq, Repr

/-- The implemented configuration registers (43_config.md R109). -/
inductive ConfigReg where
  | repeatReg | dlyRst | dlyBit | status | patOne | patZero
  deriving DecidableEq, Repr

/-- One command of the assembler's text, its numbers as written: they may not fit their fields (30_encoding.md R71). -/
inductive AsmCmd where
  | nop
  | wr (r c v : Nat)
  | rd (r c : Nat)
  | fill (v : Nat)
  | emit (v : Nat)
  | refresh
  | cfgw (s v : Nat)
  | cfgr (s : Nat)
  deriving DecidableEq, Repr

/-- One line of the assembler: a command (30_encoding.md R71) or a pseudo-instruction (R72). -/
inductive AsmLine where
  | cmd (c : AsmCmd)
  /-- `CLEAR`. -/
  | clear
  /-- `CLRERR`. -/
  | clrErr
  /-- `SETREPEAT n`. -/
  | setRepeat (n : Nat)
  /-- `SETDELAY a, b`. -/
  | setDelay (a b : Nat)
  /-- `SET r, c, v`. -/
  | set (r c v : Nat)
  deriving DecidableEq, Repr

end Sys2Proof
end

