-- ==== Sys2Proof/WellFormed.lean ====
section
/-! DEFINITION. Which terms of the syntax are well formed.
An `Instr` carries fields of the encoding's own widths, so each one is well formed by its type; the checks that can fail are the
assembler's (30_encoding.md R71): "An assembler rejects a number that does not fit its field (r, c and s above 15, v above
0xFFFF)". -/

namespace Sys2Proof

/-- Every command of the decoded syntax is well formed: its operands are exactly as wide as their fields (30_encoding.md R60, R69). -/
def Instr.wellFormed : Instr → Bool
  | .nop => true
  | .wr _ _ _ => true
  | .rd _ _ => true
  | .fill _ => true
  | .emit _ => true
  | .refresh => true
  | .cfgw _ _ => true
  | .cfgr _ => true
  | .illegal => true

/-- A row, a column or a register select fits its 4-bit field (30_encoding.md R71). -/
def fitsNibble (n : Nat) : Bool := decide (n ≤ 15)

/-- A value fits the 16-bit DATA field (30_encoding.md R71). -/
def fitsData (n : Nat) : Bool := decide (n ≤ 0xFFFF)

/-- Every number of the command fits its field (30_encoding.md R71). -/
def AsmCmd.wellFormed : AsmCmd → Bool
  | .nop => true
  | .wr r c v => fitsNibble r && fitsNibble c && fitsData v
  | .rd r c => fitsNibble r && fitsNibble c
  | .fill v => fitsData v
  | .emit v => fitsData v
  | .refresh => true
  | .cfgw s v => fitsNibble s && fitsData v
  | .cfgr s => fitsNibble s

/-- A line is well formed when every command it stands for is (30_encoding.md R71, R72). -/
def AsmLine.wellFormed : AsmLine → Bool
  | .cmd c => c.wellFormed
  | .clear => true
  | .clrErr => true
  | .setRepeat n => fitsData n
  | .setDelay a b => fitsData a && fitsData b
  | .set r c v => fitsNibble r && fitsNibble c && fitsData v

end Sys2Proof
end

