-- ==== Sys2Proof/Decode.lean ====
section
/-! DEFINITION. From command words to commands and back (30_encoding.md), and the assembler's encoding (R71, R72). -/

namespace Sys2Proof

/-- `OP = cmd_word[31:28]` (30_encoding.md R61). -/
def opField (w : Word) : Nibble := w.extractLsb' 28 4

/-- `RA = cmd_word[27:24]` (30_encoding.md R62). -/
def raField (w : Word) : Nibble := w.extractLsb' 24 4

/-- `CB = cmd_word[23:20]` (30_encoding.md R63). -/
def cbField (w : Word) : Nibble := w.extractLsb' 20 4

/-- `DATA = cmd_word[15:0]` (30_encoding.md R65). -/
def dataField (w : Word) : Data := w.extractLsb' 0 16

/-- `v = DATA[7:0] = trunc_8(DATA)`: "`DATA[15:8]` is discarded without error" (30_encoding.md R65). -/
def truncByte (d : Data) : Byte := d.setWidth 8

/-- The value operand of a word (30_encoding.md R65). -/
def valueField (w : Word) : Byte := truncByte (dataField w)

/-- The decoder: total, and the choice of the command reads OP alone (30_encoding.md R66, R69, R70). -/
def decode (w : Word) : Instr :=
  match (opField w).toNat with
  | 0 => .nop
  | 1 => .wr (raField w) (cbField w) (valueField w)
  | 2 => .rd (raField w) (cbField w)
  | 3 => .fill (valueField w)
  | 4 => .emit (valueField w)
  | 5 => .refresh
  | 6 => .cfgw (raField w) (valueField w)
  | 7 => .cfgr (raField w)
  | _ => .illegal

/-- The 32-bit word whose bits are those of the number `w`, taken as an instruction of `nbits` bits: bits at and above `nbits`
are 0, and a command word has 32 bits (30_encoding.md R59; log entry 3). -/
def tableWord (nbits w : Nat) : Word := BitVec.ofNat 32 (w % 2 ^ nbits)

/-- What the decoder reads from a word numbered as the opcode table numbers it. It never refuses (30_encoding.md R69). -/
def decodeTableWord (nbits w : Nat) : Option Instr := some (decode (tableWord nbits w))

/-- The format CMD32: OP, RA, CB, RSV = 0, DATA from bit 31 down (30_encoding.md R60). -/
def cmdWord (op ra cb : Nibble) (data : Data) : Word := op ++ ra ++ cb ++ (0 : Nibble) ++ data

/-- DATA holding an 8-bit value: `zext_16(v)` (00_scope.md R9). -/
def zextData (v : Byte) : Data := v.setWidth 16

/-- The word of a command: the opcode of 30_encoding.md R66, its operands in their fields, every other field 0 (R71). A reserved
command is written with OP 0x8, the first reserved opcode (DESIGN CHOICE, log entry 8). -/
def encode : Instr → Word
  | .nop => cmdWord 0 0 0 0
  | .wr r c v => cmdWord 1 r c (zextData v)
  | .rd r c => cmdWord 2 r c 0
  | .fill v => cmdWord 3 0 0 (zextData v)
  | .emit v => cmdWord 4 0 0 (zextData v)
  | .refresh => cmdWord 5 0 0 0
  | .cfgw s v => cmdWord 6 s 0 (zextData v)
  | .cfgr s => cmdWord 7 s 0 0
  | .illegal => cmdWord 8 0 0 0

/-- The opcode table's `mask` of a command's row (spec/opcode_table.json). -/
def rowMask : Instr → Word
  | .nop => 0xF0000000
  | .wr _ _ _ => 0xF0000000
  | .rd _ _ => 0xF0000000
  | .fill _ => 0xF0000000
  | .emit _ => 0xF0000000
  | .refresh => 0xF0000000
  | .cfgw _ _ => 0xF0000000
  | .cfgr _ => 0xF0000000
  | .illegal => 0x80000000

/-- The opcode table's `match` of a command's row (spec/opcode_table.json). -/
def rowMatch : Instr → Word
  | .nop => 0x00000000
  | .wr _ _ _ => 0x10000000
  | .rd _ _ => 0x20000000
  | .fill _ => 0x30000000
  | .emit _ => 0x40000000
  | .refresh => 0x50000000
  | .cfgw _ _ => 0x60000000
  | .cfgr _ => 0x70000000
  | .illegal => 0x80000000

/-- The bits of the word that a command reads: its opcode and the fields of 30_encoding.md R66 and R67. -/
def usedBits : Instr → Word
  | .nop => 0xF0000000
  | .wr _ _ _ => 0xFFF000FF
  | .rd _ _ => 0xFFF00000
  | .fill _ => 0xF00000FF
  | .emit _ => 0xF00000FF
  | .refresh => 0xF0000000
  | .cfgw _ _ => 0xFF0000FF
  | .cfgr _ => 0xFF000000
  | .illegal => 0x80000000

/-- The word the assembler writes for one command; numbers that fit their fields stand there whole, DATA with all its 16 bits
(30_encoding.md R71). -/
def AsmCmd.word : AsmCmd → Word
  | .nop => cmdWord 0 0 0 0
  | .wr r c v => cmdWord 1 (BitVec.ofNat 4 r) (BitVec.ofNat 4 c) (BitVec.ofNat 16 v)
  | .rd r c => cmdWord 2 (BitVec.ofNat 4 r) (BitVec.ofNat 4 c) 0
  | .fill v => cmdWord 3 0 0 (BitVec.ofNat 16 v)
  | .emit v => cmdWord 4 0 0 (BitVec.ofNat 16 v)
  | .refresh => cmdWord 5 0 0 0
  | .cfgw s v => cmdWord 6 (BitVec.ofNat 4 s) 0 (BitVec.ofNat 16 v)
  | .cfgr s => cmdWord 7 (BitVec.ofNat 4 s) 0 0

/-- The command a line of the assembler's text means, its value operand truncated to 8 bits by the hardware (30_encoding.md R65, R71). -/
def AsmCmd.instr : AsmCmd → Instr
  | .nop => .nop
  | .wr r c v => .wr (BitVec.ofNat 4 r) (BitVec.ofNat 4 c) (BitVec.ofNat 8 v)
  | .rd r c => .rd (BitVec.ofNat 4 r) (BitVec.ofNat 4 c)
  | .fill v => .fill (BitVec.ofNat 8 v)
  | .emit v => .emit (BitVec.ofNat 8 v)
  | .refresh => .refresh
  | .cfgw s v => .cfgw (BitVec.ofNat 4 s) (BitVec.ofNat 8 v)
  | .cfgr s => .cfgr (BitVec.ofNat 4 s)

/-- The commands a line stands for, in order; a pseudo-instruction's are those of 30_encoding.md R72. -/
def AsmLine.expand : AsmLine → List AsmCmd
  | .cmd c => [c]
  | .clear => [.fill 0]
  | .clrErr => [.cfgw 3 0x02]
  | .setRepeat n => [.cfgw 0 n]
  | .setDelay a b => [.cfgw 1 a, .cfgw 2 b]
  | .set r c v => [.wr r c v]

/-- The assembler: the words of a well-formed line, none for a line with a number that does not fit (30_encoding.md R71, R72). -/
def AsmLine.assemble (l : AsmLine) : Option (List Word) :=
  if l.wellFormed then some (l.expand.map AsmCmd.word) else none

end Sys2Proof
end

