-- ==== Sys2Proof/Config.lean ====
section
/-! DEFINITION. What is fixed for the life of the hardware: the parameters of 00_scope.md R6 and the two OPEN parameters of R7. -/

namespace Sys2Proof.Config

/-- `ROWS`, the first index's bound (00_scope.md R6). -/
def rows : Nat := 8

/-- `COLS`, the second index's bound (00_scope.md R6). -/
def cols : Nat := 8

/-- `CELLS` = ROWS × COLS (00_scope.md R6). -/
def cells : Nat := rows * cols

/-- `SCAN_REPEAT`, the reset value of the REPEAT register (00_scope.md R6). -/
def scanRepeat : Byte := 0x08

/-- `P_RESET`, the all-zero pattern (00_scope.md R6). -/
def pReset : Byte := 0x00

/-- `P_ZERO`, OPEN: the value written to the port for a serialized 0 bit (00_scope.md R7; log entry 2). -/
opaque pZero : Byte

/-- OPEN: how far P_ONE lies above P_ZERO modulo 256, less one. With `pZero` it ranges over exactly the pairs with
P_ONE ≠ P_ZERO (`pOne_ne_pZero`, `distinct_patterns_arise` in Laws/Config.lean), so the constraint of 00_scope.md R7 needs no assumption
(log entry 2). -/
opaque patternGap : Fin 255

/-- `P_ONE`, OPEN: the value written to the port for a serialized 1 bit; distinct from `pZero` and otherwise any byte
(00_scope.md R7; log entry 2). -/
def pOne : Byte := pZero + BitVec.ofNat 8 (patternGap.val + 1)

end Sys2Proof.Config
end

