-- ==== Sys2Proof/Machine/State.lean ====
section
/-! DEFINITION. The complete state of FBCORE (10_state.md R21), its reset value, and the reasons a step could stop. -/

namespace Sys2Proof.Machine

/-- MODE, what the sequencer is doing (10_state.md R29); the encoding's fourth value has no constructor (R29 allows it). -/
inductive Mode where
  /-- IDLE: it accepts commands. -/
  | idle
  /-- FILL: a FILL command is writing cells. -/
  | fill
  /-- SER: the serializer is running, for an EMIT or a REFRESH. -/
  | ser
  deriving DecidableEq, Repr

/-- SRC, where the current serialization came from (10_state.md R32). -/
inductive Source where
  | emit | scan
  deriving DecidableEq, Repr

/-- PHASE, the micro-step of the current pulse (10_state.md R31). -/
inductive Phase where
  /-- W0: the reset pattern is written. -/
  | w0
  /-- H0: the reset pattern is held. -/
  | h0
  /-- W1: the bit pattern is written. -/
  | w1
  /-- H1: the bit pattern is held. -/
  | h1
  deriving DecidableEq, Repr

/-- The framebuffer array as (address, value) pairs in canonical form: see `Memory.wf` in Machine/Ops.lean (20_memory.md R42). -/
abbrev Memory := List Host.Cell

/-- The inputs just before one rising edge of `clk` (10_state.md R15, R20). -/
structure EdgeInput where
  /-- `rst`. -/
  rst : Bool
  /-- `cmd_valid`. -/
  cmdValid : Bool
  /-- `cmd_word`. -/
  cmdWord : Word
  deriving DecidableEq, Repr

/-- The complete state (10_state.md R21), and the inputs of the coming edges. -/
structure State where
  /-- `FB[0..63]` (20_memory.md R42). -/
  fb : Memory
  /-- PORT (R17). -/
  port : Byte
  /-- PORT_WE (R17, R38). -/
  portWe : Bool
  /-- REPEAT (R22). -/
  repeatCount : Byte
  /-- DLY_RST (R23). -/
  dlyRst : Byte
  /-- DLY_BIT (R24). -/
  dlyBit : Byte
  /-- ERR (R26). -/
  err : Bool
  /-- ERRCODE (R27). -/
  errCode : BitVec 2
  /-- RSP_VALID (R18). -/
  rspValid : Bool
  /-- RSP_ERR (R18). -/
  rspErr : Bool
  /-- RSP_DATA (R18). -/
  rspData : Byte
  /-- MODE (R29). -/
  mode : Mode
  /-- SRC (R32). -/
  src : Source
  /-- FCNT, the address of the next cell a FILL writes (R30). -/
  fcnt : CellAddr
  /-- FVAL, the value a FILL writes (R30). -/
  fval : Byte
  /-- SH, the remaining value (R31). -/
  sh : Byte
  /-- B, the index of the bit being serialized (R31). -/
  b : BitVec 3
  /-- PHASE (R31). -/
  phase : Phase
  /-- DCNT, the hold edges left (R31). -/
  dcnt : Byte
  /-- I, the outer scan index, a column (R32). -/
  i : Index
  /-- K, the middle scan index, a pass (R32). -/
  k : Byte
  /-- J, the inner scan index, a row (R32). -/
  j : Index
  /-- The model's own field: the inputs of the coming edges, the next edge's first. Past its end the host offers nothing
  (DESIGN CHOICE, log entry 1). -/
  inputs : List EdgeInput
  deriving DecidableEq, Repr

/-- The reasons the machine could stop with a fault: none. FBCORE's errors are recorded in ERR and ERRCODE and the machine goes on
(60_exceptions.md R113 to R115, 30_encoding.md R69; safe, log entry 7). -/
inductive Fault where
  deriving DecidableEq, Repr

/-- The reasons a step could have no meaning. -/
inductive Refusal where
  /-- Raised by an arm of `exec` whose instruction has no meaning yet: no arm does (safe, log entry 7). -/
  | notModelled (mnemonic : String)
  deriving DecidableEq, Repr

/-- The state right after an edge with `rst = 1`: the reset column of 10_state.md R21 (70_reset_and_hazards.md R127, R129). -/
def State.reset : State :=
  { fb := [], port := 0x00, portWe := false,
    repeatCount := Config.scanRepeat, dlyRst := 0x00, dlyBit := 0x00,
    err := false, errCode := 0b00,
    rspValid := false, rspErr := false, rspData := 0x00,
    mode := .idle, src := .emit, fcnt := 0, fval := 0x00,
    sh := 0x00, b := 0, phase := .w0, dcnt := 0x00,
    i := 0, k := 0x00, j := 0,
    inputs := [] }

end Sys2Proof.Machine
end

