-- ==== Sys2Proof/Machine/Flags.lean ====
section
/-! DEFINITION. The status flags BUSY and ERR, STATUS, the error codes, and the outputs (10_state.md R25, R39, R40; 60_exceptions.md R112). -/

namespace Sys2Proof.Machine

/-- The causes of an error (60_exceptions.md R112). -/
inductive ErrorCause where
  | range | illegal | badReg
  deriving DecidableEq, Repr

/-- The code of a cause (60_exceptions.md R112); 0b00 is "no error". -/
def ErrorCause.code : ErrorCause → BitVec 2
  | .range => 0b01
  | .illegal => 0b10
  | .badReg => 0b11

/-- BUSY: `MODE != IDLE` (10_state.md R25, R40). -/
def State.busy (s : State) : Bool := decide (s.mode ≠ .idle)

/-- STATUS: `{0b0000, ERRCODE, ERR, BUSY}` (10_state.md R25). -/
def State.statusByte (s : State) : Byte :=
  (0 : Nibble) ++ s.errCode ++ BitVec.ofBool s.err ++ BitVec.ofBool s.busy

/-- `cmd_ready = (MODE = IDLE) and (rst = 0)` (10_state.md R37). -/
def State.cmdReady (s : State) (rst : Bool) : Bool := decide (s.mode = .idle) && !rst

/-- The output signals (10_state.md R15). -/
structure Outputs where
  /-- `cmd_ready`. -/
  cmdReady : Bool
  /-- `rsp_valid`. -/
  rspValid : Bool
  /-- `rsp_err`. -/
  rspErr : Bool
  /-- `rsp_data`. -/
  rspData : Byte
  /-- `port_data`. -/
  portData : Byte
  /-- `port_we`. -/
  portWe : Bool
  /-- `busy`. -/
  busy : Bool
  /-- `err`. -/
  err : Bool
  deriving DecidableEq, Repr

/-- "Every output is a function of state, and of `rst` for `cmd_ready`" (10_state.md R40). -/
def State.outputs (s : State) (rst : Bool) : Outputs :=
  { cmdReady := s.cmdReady rst, rspValid := s.rspValid, rspErr := s.rspErr, rspData := s.rspData,
    portData := s.port, portWe := s.portWe, busy := s.busy, err := s.err }

end Sys2Proof.Machine
end

