-- ==== Sys2Proof/Machine/Operands.lean ====
section
/-! DEFINITION. The operand forms: cell indices, the cell address, register selects (20_memory.md, 40_framebuffer.md, 43_config.md). -/

namespace Sys2Proof.Machine

/-- `in_range(r, c) = (r < 8) and (c < 8)` on the 4-bit RA and CB fields (40_framebuffer.md R73). -/
def inRange (r c : Nibble) : Bool := decide (r.toNat < 8) && decide (c.toNat < 8)

/-- The address of the cell at a row and a column of the addressed region, `{r, c}` (20_memory.md R44). -/
def cellAddr (r c : Index) : CellAddr := r ++ c

/-- `x[2:0]` of an index field (20_memory.md R44). -/
def lowIndex (x : Nibble) : Index := x.extractLsb' 0 3

/-- `addr(r, c) = {r[2:0], c[2:0]}` of the index fields (20_memory.md R44). -/
def addr (r c : Nibble) : CellAddr := cellAddr (lowIndex r) (lowIndex c)

/-- The register select map (43_config.md R109); `none` for the unimplemented selects 6 to 15. -/
def configReg (sel : Nibble) : Option ConfigReg :=
  match sel.toNat with
  | 0 => some .repeatReg
  | 1 => some .dlyRst
  | 2 => some .dlyBit
  | 3 => some .status
  | 4 => some .patOne
  | 5 => some .patZero
  | _ => none

end Sys2Proof.Machine
end

