-- ==== Sys2Proof/Machine/Ops.lean ====
section
/-! DEFINITION. The named operations over the framebuffer array and the registers, the error entry and its clearing
(20_memory.md, 60_exceptions.md R114, 10_state.md R17, R18, R38). -/

namespace Sys2Proof.Machine

/-! ### The framebuffer array as data -/

/-- What a cell that the list does not name reads as: the reset contents (70_reset_and_hazards.md R129). -/
def unlistedCell : Byte := 0x00

/-- The value listed at an address, or `unlistedCell`. -/
def Memory.lookup (a : Nat) : Memory → Byte
  | [] => unlistedCell
  | (a', v) :: rest => if a' = a then v else Memory.lookup a rest

/-- `FB[a]` (00_scope.md R10): total, since a cell address has 6 bits and the array 64 cells (20_memory.md R42). -/
def Memory.read (m : Memory) (a : CellAddr) : Byte := Memory.lookup a.toNat m

/-- `v` put at address `a`, in canonical form: no entry where `v` is what an unlisted cell reads as. -/
def Memory.put (a : Nat) (v : Byte) : Memory → Memory
  | [] => if v = unlistedCell then [] else [(a, v)]
  | (a', v') :: rest =>
    if a < a' then (if v = unlistedCell then (a', v') :: rest else (a, v) :: (a', v') :: rest)
    else if a = a' then (if v = unlistedCell then rest else (a, v) :: rest)
    else (a', v') :: Memory.put a v rest

/-- `FB[a] <- v` (00_scope.md R10). -/
def Memory.write (m : Memory) (a : CellAddr) (v : Byte) : Memory := Memory.put a.toNat v m

/-- The canonical form from address `lo` on: addresses strictly rising and below 64, no entry equal to an unlisted cell. -/
def Memory.wfFrom : Nat → Memory → Bool
  | _, [] => true
  | lo, (a, v) :: rest => decide (lo ≤ a) && decide (a < Config.cells) && decide (v ≠ unlistedCell) && Memory.wfFrom (a + 1) rest

/-- The canonical form of the framebuffer's contents. -/
def Memory.wf (m : Memory) : Bool := Memory.wfFrom 0 m

/-! ### The two ports of the array (20_memory.md, section 2) -/

/-- The signals driven on one port of the array in one edge period (20_memory.md R46, R47). -/
structure PortReq where
  /-- `x_en`. -/
  en : Bool
  /-- `x_we`. -/
  we : Bool
  /-- `x_addr`. -/
  addr : CellAddr
  /-- `x_wdata`. -/
  wdata : Byte
  deriving DecidableEq, Repr

/-- The port is not enabled. -/
def PortReq.off : PortReq := { en := false, we := false, addr := 0, wdata := 0x00 }

/-- The port reads cell `a`. -/
def PortReq.read (a : CellAddr) : PortReq := { en := true, we := false, addr := a, wdata := 0x00 }

/-- The port writes `v` to cell `a`. -/
def PortReq.write (a : CellAddr) (v : Byte) : PortReq := { en := true, we := true, addr := a, wdata := v }

/-- `x_rdata`: "When `x_en = 1` and `x_we = 0` on port x, `x_rdata = FB[x_addr]`", the contents before the edge (20_memory.md R48, R50);
`none` where the rules give `x_rdata` no value (log entry 6). -/
def PortReq.rdata (p : PortReq) (m : Memory) : Option Byte := if p.en && !p.we then some (m.read p.addr) else none

/-- One port's write at the edge (20_memory.md R49). -/
def PortReq.commit (p : PortReq) (m : Memory) : Memory := if p.en && p.we then m.write p.addr p.wdata else m

/-- The array at an edge with both ports driven: port A's value is stored where both write one cell (20_memory.md R49, R51). -/
def arrayEdge (m : Memory) (portA portB : PortReq) : Memory := portA.commit (portB.commit m)

/-- The host writes a cell through port A (20_memory.md R46, R49). -/
def State.hostWrite (a : CellAddr) (v : Byte) (s : State) : State := { s with fb := arrayEdge s.fb (.write a v) .off }

/-- The host reads a cell through port A (20_memory.md R46, R48). -/
def State.hostRead (a : CellAddr) (s : State) : Byte := s.fb.read a

/-- The scanner reads a cell through port B (20_memory.md R47, R48). -/
def State.scanRead (a : CellAddr) (s : State) : Byte := s.fb.read a

/-! ### The HardwarePort, responses and the defaults of an edge -/

/-- `PortWrite(v)`: `port_data <- v; port_we <- 1` (00_scope.md R10, 10_state.md R17). -/
def State.portWrite (v : Byte) (s : State) : State := { s with port := v, portWe := true }

/-- A response: `RSP_VALID <- 1; RSP_ERR <- e; RSP_DATA <- d` (10_state.md R18). -/
def State.respond (e : Bool) (d : Byte) (s : State) : State := { s with rspValid := true, rspErr := e, rspData := d }

/-- "At every edge outside reset, `PORT_WE` is first set to 0 and `RSP_VALID` to 0" (10_state.md R38). -/
def State.edgeDefaults (s : State) : State := { s with portWe := false, rspValid := false }

/-! ### Errors (60_exceptions.md) -/

/-- `raise Error(code)`: "if ERR = 0: ERR <- 1; ERRCODE <- code", else the first error is kept; nothing else changes
(60_exceptions.md R114). -/
def State.raiseError (c : ErrorCause) (s : State) : State := if s.err then s else { s with err := true, errCode := c.code }

/-- The error record is cleared, the return from an error: `ERR <- 0; ERRCODE <- 0b00` (43_config.md R106, 60_exceptions.md R118). -/
def State.clearError (s : State) : State := { s with err := false, errCode := 0b00 }

/-- A rejected RD or CFGR: the error, and the response `rsp_valid = 1`, `rsp_err = 1`, `rsp_data = 0x00` (60_exceptions.md R114). -/
def State.rejectRead (c : ErrorCause) (s : State) : State := (s.raiseError c).respond true 0x00

/-! ### The serializer's load (shared by EMIT and the scanner) -/

/-- `ser_load(v)`: `SH <- v; B <- 0; PHASE <- W0; DCNT <- 0` (41_serializer.md R85). -/
def State.serLoad (v : Byte) (s : State) : State := { s with sh := v, b := 0, phase := .w0, dcnt := 0x00 }

/-- `pattern(x) = P_ONE if x = 1 else P_ZERO` (41_serializer.md R87). -/
def pattern (x : Bool) : Byte := if x then Config.pOne else Config.pZero

/-! ### Inputs and reset -/

/-- The inputs of an edge at which the host does nothing. -/
def EdgeInput.quiet : EdgeInput := { rst := false, cmdValid := false, cmdWord := 0 }

/-- The inputs of an edge at which the host offers a command (10_state.md R16). -/
def EdgeInput.offer (w : Word) : EdgeInput := { rst := false, cmdValid := true, cmdWord := w }

/-- The inputs just before the next edge; the host offers nothing where the list has ended (DESIGN CHOICE, log entry 1). -/
def State.nextInput (s : State) : EdgeInput := s.inputs.headD .quiet

/-- The next edge's inputs are used up. -/
def State.popInput (s : State) : State := { s with inputs := s.inputs.tail }

/-- Reset: every state element takes its reset value "whatever the state was" (70_reset_and_hazards.md R127). The coming inputs are the
host's and stay. -/
def State.applyReset (s : State) : State := { State.reset with inputs := s.inputs }

end Sys2Proof.Machine
end

