-- ==== Sys2Proof/Machine/ConfigRegs.lean ====
section
/-! DEFINITION. CFGW, CFGR and the reserved opcodes (43_config.md, 30_encoding.md R68). -/

namespace Sys2Proof.Machine

/-- `status_write(v)`: bit 1 is write-1-to-clear, every other bit of v is ignored (43_config.md R106). -/
def State.statusWrite (v : Byte) (s : State) : State := if v.getLsbD 1 then s.clearError else s

/-- `cfgw(s, v)` (43_config.md R105, R107). -/
def execCfgw (sel : Nibble) (v : Byte) (s : State) : Host.Outcome State Fault Refusal :=
  match configReg sel with
  | some .repeatReg => .next { s with repeatCount := v }
  | some .dlyRst => .next { s with dlyRst := v }
  | some .dlyBit => .next { s with dlyBit := v }
  | some .status => .next (s.statusWrite v)
  | some .patOne => .next (s.raiseError .badReg)
  | some .patZero => .next (s.raiseError .badReg)
  | none => .next (s.raiseError .badReg)

/-- The value a register reads as (43_config.md R108; STATUS by 10_state.md R25, log entry 8). -/
def State.configRead (r : ConfigReg) (s : State) : Byte :=
  match r with
  | .repeatReg => s.repeatCount
  | .dlyRst => s.dlyRst
  | .dlyBit => s.dlyBit
  | .status => s.statusByte
  | .patOne => Config.pOne
  | .patZero => Config.pZero

/-- `cfgr(s)` (43_config.md R108). -/
def execCfgr (sel : Nibble) (s : State) : Host.Outcome State Fault Refusal :=
  match configReg sel with
  | some r => .next (s.respond false (s.configRead r))
  | none => .next (s.rejectRead .badReg)

/-- OP 0x8 to 0xF: `raise Error(ILLEGAL)`, no other effect, no response (30_encoding.md R68). -/
def execIllegal (s : State) : Host.Outcome State Fault Refusal := .next (s.raiseError .illegal)

end Sys2Proof.Machine
end

