-- ==== Sys2Proof/Machine/Framebuffer.lean ====
section
/-! DEFINITION. NOP, WR, RD, FILL and the FILL step (40_framebuffer.md). -/

namespace Sys2Proof.Machine

/-- `nop(): (nothing)` (40_framebuffer.md R74). -/
def execNop (s : State) : Host.Outcome State Fault Refusal := .next s

/-- `wr(r, c, v)` (40_framebuffer.md R75, R73). -/
def execWr (r c : Nibble) (v : Byte) (s : State) : Host.Outcome State Fault Refusal :=
  if inRange r c then .next (s.hostWrite (addr r c) v) else .next (s.raiseError .range)

/-- `rd(r, c)` (40_framebuffer.md R76, R73). -/
def execRd (r c : Nibble) (s : State) : Host.Outcome State Fault Refusal :=
  if inRange r c then .next (s.respond false (s.hostRead (addr r c))) else .next (s.rejectRead .range)

/-- `fill_start(v)`: `FVAL <- v; FCNT <- 0; MODE <- FILL` (40_framebuffer.md R77). -/
def execFill (v : Byte) (s : State) : Host.Outcome State Fault Refusal :=
  .next { s with fval := v, fcnt := 0, mode := .fill }

/-- `fill_step()`: one cell through port A, then the next address or the end at cell 63 (40_framebuffer.md R78). -/
def State.fillStep (s : State) : State :=
  let t := s.hostWrite s.fcnt s.fval
  if s.fcnt.toNat = 63 then { t with mode := .idle } else { t with fcnt := s.fcnt + 1 }

end Sys2Proof.Machine
end

