-- ==== Sys2Proof/Machine/Scanner.lean ====
section
/-! DEFINITION. REFRESH and the frame scanner (42_scanner.md). -/

namespace Sys2Proof.Machine

/-- The cell serialized at scan position (I, J): `framebuffer[J][I]`, row J, column I (42_scanner.md R97). -/
def scanAddr (i j : Index) : CellAddr := cellAddr j i

/-- `refresh_start()` (42_scanner.md R96). -/
def execRefresh (s : State) : Host.Outcome State Fault Refusal :=
  if s.repeatCount = 0 then .next s
  else .next { s.serLoad (s.scanRead (scanAddr 0 0)) with src := .scan, i := 0, k := 0, j := 0, mode := .ser }

/-- A scan position (10_state.md R32). -/
structure ScanPos where
  /-- I. -/
  i : Index
  /-- K. -/
  k : Byte
  /-- J. -/
  j : Index
  deriving DecidableEq, Repr

/-- The position after the current one, or `none` at the end of the scan: J, then K below REPEAT (compared without wrapping, as
9-bit values), then I (42_scanner.md R98). -/
def State.scanNext (s : State) : Option ScanPos :=
  if s.j.toNat < 7 then some { i := s.i, k := s.k, j := s.j + 1 }
  else if s.k.toNat + 1 < s.repeatCount.toNat then some { i := s.i, k := s.k + 1, j := 0 }
  else if s.i.toNat < 7 then some { i := s.i + 1, k := 0, j := 0 }
  else none

/-- `scan_advance()` (42_scanner.md R98). -/
def State.scanAdvance (s : State) : State :=
  match s.scanNext with
  | some p => { s.serLoad (s.scanRead (scanAddr p.i p.j)) with i := p.i, k := p.k, j := p.j }
  | none => { s with mode := .idle }

end Sys2Proof.Machine
end

