-- ==== Sys2Proof/Machine/Serializer.lean ====
section
/-! DEFINITION. EMIT and the bit-serial encoder (41_serializer.md). -/

namespace Sys2Proof.Machine

/-- `emit_start(v)`: `SRC <- EMIT; ser_load(v); MODE <- SER` (41_serializer.md R84). -/
def execEmit (v : Byte) (s : State) : Host.Outcome State Fault Refusal :=
  .next { s.serLoad v with src := .emit, mode := .ser }

/-- `cell_done()` (41_serializer.md R89). -/
def State.cellDone (s : State) : State :=
  match s.src with
  | .emit => { s with mode := .idle }
  | .scan => s.scanAdvance

/-- `bit_done()` (41_serializer.md R89). -/
def State.bitDone (s : State) : State :=
  if s.b.toNat < 7 then { s with b := s.b + 1, phase := .w0 } else s.cellDone

/-- The W0 edge: the reset write of a pulse (41_serializer.md R88). -/
def State.serW0 (s : State) : State :=
  let t := s.portWrite Config.pReset
  if s.dlyRst = 0 then { t with phase := .w1 } else { t with dcnt := s.dlyRst - 1, phase := .h0 }

/-- An H0 edge: the reset pattern is held (41_serializer.md R88). -/
def State.serH0 (s : State) : State :=
  if s.dcnt = 0 then { s with phase := .w1 } else { s with dcnt := s.dcnt - 1 }

/-- The W1 edge: the bit pattern of the least significant remaining bit, and the shift right by one (41_serializer.md R88). -/
def State.serW1 (s : State) : State :=
  let t := s.portWrite (pattern (s.sh.getLsbD 0))
  let u := { t with sh := s.sh >>> 1 }
  if s.dlyBit = 0 then u.bitDone else { u with dcnt := s.dlyBit - 1, phase := .h1 }

/-- An H1 edge: the bit pattern is held (41_serializer.md R88). -/
def State.serH1 (s : State) : State :=
  if s.dcnt = 0 then s.bitDone else { s with dcnt := s.dcnt - 1 }

/-- `ser_step()` (41_serializer.md R88). -/
def State.serStep (s : State) : State :=
  match s.phase with
  | .w0 => s.serW0
  | .h0 => s.serH0
  | .w1 => s.serW1
  | .h1 => s.serH1

end Sys2Proof.Machine
end

