-- ==== Sys2Proof/Machine/Dispatch.lean ====
section
/-! DEFINITION. One arm per command: the `case OP` of `accept(cmd)` (30_encoding.md R70). -/

namespace Sys2Proof.Machine

def exec (i : Instr) (s : State) : Host.Outcome State Fault Refusal :=
  match i with
  | .nop => Sys2Proof.Machine.execNop s
  | .wr row col v => Sys2Proof.Machine.execWr row col v s
  | .rd row col => Sys2Proof.Machine.execRd row col s
  | .fill v => Sys2Proof.Machine.execFill v s
  | .emit v => Sys2Proof.Machine.execEmit v s
  | .refresh => Sys2Proof.Machine.execRefresh s
  | .cfgw sel v => Sys2Proof.Machine.execCfgw sel v s
  | .cfgr sel => Sys2Proof.Machine.execCfgr sel s
  | .illegal => Sys2Proof.Machine.execIllegal s

end Sys2Proof.Machine
end

