-- ==== Sys2Proof/Machine/Edge.lean ====
section
/-! DEFINITION. The step at each edge (10_state.md R36), and the array ports' signals at it (20_memory.md R46, R47). -/

namespace Sys2Proof.Machine

/-- "IDLE: if cmd_valid = 1: accept(cmd_word)" (10_state.md R36, 30_encoding.md R70). -/
def acceptEdge (inp : EdgeInput) (s : State) : Host.Outcome State Fault Refusal :=
  if inp.cmdValid then exec (decode inp.cmdWord) s else .next s

/-- `step(state, rst, cmd_valid, cmd_word)`: reset first; else the defaults, and then what MODE says (10_state.md R36). -/
def edge (inp : EdgeInput) (s : State) : Host.Outcome State Fault Refusal :=
  if inp.rst then .next s.applyReset
  else
    match s.mode with
    | .idle => acceptEdge inp s.edgeDefaults
    | .fill => .next s.edgeDefaults.fillStep
    | .ser => .next s.edgeDefaults.serStep

/-- The command accepted at an edge, if one is: `cmd_valid = 1` and `cmd_ready = 1` just before it (10_state.md R16). -/
def accepted (inp : EdgeInput) (s : State) : Option Instr :=
  if inp.cmdValid && s.cmdReady inp.rst then some (decode inp.cmdWord) else none

/-- The serialization of the current cell ends at this edge: its last bit's last micro-step (41_serializer.md R88, R89). -/
def State.cellEnds (s : State) : Bool :=
  decide (s.mode = .ser) && decide (s.b.toNat = 7) &&
    ((decide (s.phase = .w1) && decide (s.dlyBit = 0)) || (decide (s.phase = .h1) && decide (s.dcnt = 0)))

/-- Port A's signals at an edge: an accepted WR or RD in range, or a FILL step (20_memory.md R46). -/
def portA (inp : EdgeInput) (s : State) : PortReq :=
  match accepted inp s with
  | some (.wr r c v) => if inRange r c then .write (addr r c) v else .off
  | some (.rd r c) => if inRange r c then .read (addr r c) else .off
  | _ => if decide (s.mode = .fill) && !inp.rst then .write s.fcnt s.fval else .off

/-- Port B's signals at an edge: the scanner's fetch of the cell it loads, at the edge that accepts a REFRESH and at the end of each
cell but the last (20_memory.md R47, 42_scanner.md R96 to R98; log entry 6). -/
def portB (inp : EdgeInput) (s : State) : PortReq :=
  if accepted inp s = some .refresh ∧ s.repeatCount ≠ 0 then .read (scanAddr 0 0)
  else if s.cellEnds && decide (s.src = .scan) && !inp.rst then
    match s.scanNext with
    | some p => .read (scanAddr p.i p.j)
    | none => .off
  else .off

end Sys2Proof.Machine
end

