-- ==== Sys2Proof/Machine/Step.lean ====
section
/-! DEFINITION. One step: one rising edge of `clk` with the next inputs (00_scope.md R12, R13; 10_state.md R36). -/

namespace Sys2Proof.Machine

/-- One rising edge. -/
def step (s : State) : Host.Outcome State Fault Refusal := edge s.nextInput s.popInput

/-- The state in which the next edge accepts the given word: the host offers it at that edge, and the sequencer is idle, which
acceptance needs (10_state.md R16, R37; log entry 3). Later edges' inputs stay at their edges. -/
def State.withFetchWord (s : State) (nbits w : Nat) : State :=
  { s with mode := .idle, inputs := .offer (tableWord nbits w) :: s.inputs.tail }

end Sys2Proof.Machine
end

