-- ==== Sys2Proof/Machine/Assembler.lean ====
section
/-! DEFINITION. The text of the assembler (30_encoding.md R71, R72), read one line at a time as a list of characters: "One command per line.
The mnemonic is followed by operands separated by commas." Spacing, letter case and empty lines are log entry 12. -/

namespace Sys2Proof.Machine.Assembler

/-- A space or a tab. -/
def isBlank (c : Char) : Bool := c = ' ' || c = '\t'

/-- The text without blanks at either end. -/
def trim (cs : List Char) : List Char := ((cs.dropWhile isBlank).reverse.dropWhile isBlank).reverse

/-- "`;` starts a comment" (R71). -/
def stripComment (cs : List Char) : List Char := cs.takeWhile (· ≠ ';')

/-- The pieces of a text between commas, at least one. -/
def splitCommas : List Char → List (List Char)
  | [] => [[]]
  | c :: cs =>
    match splitCommas cs with
    | [] => [[c]]
    | p :: ps => if c = ',' then [] :: p :: ps else (c :: p) :: ps

/-- The value of a digit in a base up to 16. -/
def digit (base : Nat) (c : Char) : Option Nat :=
  let d :=
    if '0'.toNat ≤ c.toNat ∧ c.toNat ≤ '9'.toNat then some (c.toNat - '0'.toNat)
    else if 'a'.toNat ≤ c.toNat ∧ c.toNat ≤ 'f'.toNat then some (c.toNat - 'a'.toNat + 10)
    else if 'A'.toNat ≤ c.toNat ∧ c.toNat ≤ 'F'.toNat then some (c.toNat - 'A'.toNat + 10)
    else none
  d.bind fun n => if n < base then some n else none

/-- Digits, most significant first, after those already read. -/
def digitsFrom (base acc : Nat) : List Char → Option Nat
  | [] => some acc
  | c :: cs => (digit base c).bind fun d => digitsFrom base (base * acc + d) cs

/-- A number of at least one digit in a base. -/
def number (base : Nat) : List Char → Option Nat
  | [] => none
  | c :: cs => digitsFrom base 0 (c :: cs)

/-- "Numbers are decimal, or hexadecimal with `0x`, or binary with `0b`" (R71). -/
def readNumber : List Char → Option Nat
  | '0' :: 'x' :: cs => number 16 cs
  | '0' :: 'b' :: cs => number 2 cs
  | cs => number 10 cs

/-- "A register select may be written by name ... or by number" (R71); the numbers of the names are those of 43_config.md R109. -/
def readSelect (cs : List Char) : Option Nat :=
  if cs = "REPEAT".toList then some 0
  else if cs = "DLY_RST".toList then some 1
  else if cs = "DLY_BIT".toList then some 2
  else if cs = "STATUS".toList then some 3
  else if cs = "PAT_ONE".toList then some 4
  else if cs = "PAT_ZERO".toList then some 5
  else readNumber cs

/-- The line of a mnemonic with its operands' texts (R71, R72). -/
def readLine (m : List Char) (ops : List (List Char)) : Option AsmLine :=
  match ops with
  | [] =>
    if m = "NOP".toList then some (.cmd .nop)
    else if m = "REFRESH".toList then some (.cmd .refresh)
    else if m = "CLEAR".toList then some .clear
    else if m = "CLRERR".toList then some .clrErr
    else none
  | [a] =>
    if m = "FILL".toList then (readNumber a).map fun v => .cmd (.fill v)
    else if m = "EMIT".toList then (readNumber a).map fun v => .cmd (.emit v)
    else if m = "CFGR".toList then (readSelect a).map fun s => .cmd (.cfgr s)
    else if m = "SETREPEAT".toList then (readNumber a).map .setRepeat
    else none
  | [a, b] =>
    if m = "RD".toList then (readNumber a).bind fun r => (readNumber b).map fun c => .cmd (.rd r c)
    else if m = "CFGW".toList then (readSelect a).bind fun s => (readNumber b).map fun v => .cmd (.cfgw s v)
    else if m = "SETDELAY".toList then (readNumber a).bind fun x => (readNumber b).map fun y => .setDelay x y
    else none
  | [a, b, d] =>
    (readNumber a).bind fun r => (readNumber b).bind fun c => (readNumber d).bind fun v =>
      if m = "WR".toList then some (.cmd (.wr r c v))
      else if m = "SET".toList then some (.set r c v)
      else none
  | _ => none

/-- One line of text: `some none` for a line with nothing but blanks and a comment, `none` for text that is no line (R71). -/
def parseLine (cs : List Char) : Option (Option AsmLine) :=
  let body := trim (stripComment cs)
  if body = [] then some none
  else
    let m := body.takeWhile fun c => !isBlank c
    let rest := trim (body.dropWhile fun c => !isBlank c)
    let ops := if rest = [] then [] else (splitCommas rest).map trim
    (readLine m ops).map some

/-- The words of one line of text; none where the text is no line or a number does not fit its field (R71, R72). -/
def assembleText (cs : List Char) : Option (List Word) :=
  match parseLine cs with
  | some (some l) => l.assemble
  | some none => some []
  | none => none

end Sys2Proof.Machine.Assembler
end

