-- ==== Sys2Proof/Machine/Observe.lean ====
section
/-! DEFINITION. The observation a claim is stated through (00_scope.md R13): runs of edges, the port write events and the responses,
each with the edge it happens at, and the sequences the rules give for them (41_serializer.md R91, R93; 42_scanner.md R99, R104). -/

namespace Sys2Proof.Machine

/-- The state after `n` edges, where no edge stops the machine. -/
def runs (n : Nat) (s t : State) : Prop := Sys2Proof.core.run n s = .next t

/-- `rst = 0` at each of the next `n` edges. -/
def noReset (n : Nat) (s : State) : Bool := (s.inputs.take n).all fun inp => !inp.rst

/-- The port write events of `n` edges, the first of them numbered `e`: the edges at which `port_we` is set to 1, each with its
`port_data` value (00_scope.md R13, 10_state.md R17). -/
def portWrites (e : Nat) : Nat → State → List (Nat × Byte)
  | 0, _ => []
  | n + 1, s =>
    match step s with
    | .next t => if t.portWe then (e, t.port) :: portWrites (e + 1) n t else portWrites (e + 1) n t
    | _ => []

/-- The responses of `n` edges, the first of them numbered `e`: the edges at which `rsp_valid` is set to 1, each with `rsp_err` and
`rsp_data` (00_scope.md R13, 10_state.md R18). -/
def responses (e : Nat) : Nat → State → List (Nat × Bool × Byte)
  | 0, _ => []
  | n + 1, s =>
    match step s with
    | .next t => if t.rspValid then (e, t.rspErr, t.rspData) :: responses (e + 1) n t else responses (e + 1) n t
    | _ => []

/-- `T = 2 + DLY_RST + DLY_BIT`, the edges of one pulse (41_serializer.md R93). -/
def State.pulseEdges (s : State) : Nat := 2 + s.dlyRst.toNat + s.dlyBit.toNat

/-- The two port writes of bit `x` whose pulse is loaded at edge `p` (41_serializer.md R86, R93). -/
def pulseWrites (dlyRst : Byte) (p : Nat) (x : Bool) : List (Nat × Byte) :=
  [(p + 1, Config.pReset), (p + 2 + dlyRst.toNat, pattern x)]

/-- The 16 port writes of a serialization of `v` loaded at edge `p`, bit 0 first, a pulse every `T` edges (41_serializer.md R91, R93). -/
def serialWrites (dlyRst dlyBit : Byte) (p : Nat) (v : Byte) : List (Nat × Byte) :=
  (List.range 8).flatMap fun n => pulseWrites dlyRst (p + n * (2 + dlyRst.toNat + dlyBit.toNat)) (v.getLsbD n)

/-- The cell that serialization `n` of a scan with `R` passes reads: position `I = n div (8·R)`, `J = n mod 8`, and FB[addr(J, I)]
(42_scanner.md R99). -/
def visitCell (R n : Nat) : CellAddr := scanAddr (BitVec.ofNat 3 (n / (8 * R))) (BitVec.ofNat 3 (n % 8))

/-- The port writes of a REFRESH accepted at edge `p`: 64·R serializations back to back, 8·T edges each (42_scanner.md R99, R104). -/
def scanWrites (s : State) (p : Nat) : List (Nat × Byte) :=
  (List.range (64 * s.repeatCount.toNat)).flatMap fun n =>
    serialWrites s.dlyRst s.dlyBit (p + n * (8 * s.pulseEdges)) (s.fb.read (visitCell s.repeatCount.toNat n))

end Sys2Proof.Machine
end

