-- ==== Sys2Proof/Safety.lean ====
section
/-! DEFINITION. What holds of every state the machine reaches, and when two states look alike. -/

namespace Sys2Proof.Machine

/-- The error a command raises, if it raises one: the checks read only the command (60_exceptions.md R112, R113, R116). -/
def rejection : Instr → Option ErrorCause
  | .nop => none
  | .wr r c _ => if inRange r c then none else some .range
  | .rd r c => if inRange r c then none else some .range
  | .fill _ => none
  | .emit _ => none
  | .refresh => none
  | .cfgw sel _ => if sel.toNat < 4 then none else some .badReg
  | .cfgr sel => if sel.toNat < 6 then none else some .badReg
  | .illegal => some .illegal

/-- The command clears the error record: a CFGW to STATUS with bit 1 of its value set (43_config.md R106). -/
def clearsError : Instr → Bool
  | .nop => false
  | .wr _ _ _ => false
  | .rd _ _ => false
  | .fill _ => false
  | .emit _ => false
  | .refresh => false
  | .cfgw sel v => decide (sel = 3) && v.getLsbD 1
  | .cfgr _ => false
  | .illegal => false

/-- The command gives a response: "Only RD and CFGR produce a response" (10_state.md R18). -/
def responds : Instr → Bool
  | .nop => false
  | .wr _ _ _ => false
  | .rd _ _ => true
  | .fill _ => false
  | .emit _ => false
  | .refresh => false
  | .cfgw _ _ => false
  | .cfgr _ => true
  | .illegal => false

/-- The command is done at its accepting edge whatever the state: every one but FILL, EMIT and REFRESH
(70_reset_and_hazards.md R143). -/
def singleEdge : Instr → Bool
  | .nop => true
  | .wr _ _ _ => true
  | .rd _ _ => true
  | .fill _ => false
  | .emit _ => false
  | .refresh => false
  | .cfgw _ _ => true
  | .cfgr _ => true
  | .illegal => true

/-- The bits of the current cell's value already shifted out of SH: B of them, and one more once the bit pattern is written
(41_serializer.md R88). -/
def State.shifted (s : State) : Nat := s.b.toNat + (if s.phase = .h1 then 1 else 0)

/-- The error record, the port and the responses are what the rules leave them. -/
structure RecordsSound (s : State) : Prop where
  /-- "When ERR = 0, it is 0b00", and a recorded code is never 0b00 (10_state.md R27, 60_exceptions.md R112). -/
  error_code : s.err = false ↔ s.errCode = 0b00
  /-- PORT holds the reset pattern or a bit pattern, from reset on (41_serializer.md R88, 10_state.md R17). -/
  port_pattern : s.port = Config.pReset ∨ s.port = Config.pOne ∨ s.port = Config.pZero
  /-- A response is present only in an edge period after an RD or CFGR, when MODE is IDLE and the port is not written
  (10_state.md R18, R36). -/
  response_idle : s.rspValid = true → s.mode = .idle ∧ s.portWe = false
  /-- An error response carries 0x00 and ERR is set with it (60_exceptions.md R114). -/
  response_error : s.rspValid = true → s.rspErr = true → s.rspData = 0x00 ∧ s.err = true

/-- The hidden state of a running command agrees with the command: what the scanner and a FILL have done so far. -/
structure ProgressSound (s : State) : Prop where
  /-- A hold counts down from DLY_RST - 1 (41_serializer.md R88, R90). -/
  hold_reset : s.mode = .ser → s.phase = .h0 → s.dcnt.toNat < s.dlyRst.toNat
  /-- A hold counts down from DLY_BIT - 1 (41_serializer.md R88, R90). -/
  hold_bit : s.mode = .ser → s.phase = .h1 → s.dcnt.toNat < s.dlyBit.toNat
  /-- The port holds `P_RESET` from a pulse's reset write to its bit-pattern write (10_state.md R23, 41_serializer.md R90). -/
  port_reset : s.mode = .ser → s.phase = .h0 ∨ s.phase = .w1 → s.port = Config.pReset
  /-- A scan has a pass left to be in: K < REPEAT (42_scanner.md R98). -/
  scan_pass : s.mode = .ser → s.src = .scan → s.k.toNat < s.repeatCount.toNat
  /-- The scanner serializes `framebuffer[J][I]`: SH holds that cell's bits not yet shifted out (42_scanner.md R97). -/
  scan_value : s.mode = .ser → s.src = .scan → s.sh = s.fb.read (scanAddr s.i s.j) >>> s.shifted
  /-- A FILL has written every cell below FCNT (40_framebuffer.md R78). -/
  fill_prefix : s.mode = .fill → ∀ a : CellAddr, a.toNat < s.fcnt.toNat → s.fb.read a = s.fval

/-- The invariant of the machine: the framebuffer in canonical form, the records sound, the hidden state in step with its command. -/
structure Inv (s : State) : Prop where
  /-- The framebuffer's list is in its one canonical form. -/
  fb_canonical : s.fb.wf = true
  records : RecordsSound s
  progress : ProgressSound s

/-- Two states that differ only in state that "means nothing" or is not read where they stand: the hidden state of a command that is not
running (10_state.md R30 to R33), and the response value while `rsp_valid = 0` (R18). -/
structure LookAlike (s t : State) : Prop where
  fb : s.fb = t.fb
  port : s.port = t.port
  portWe : s.portWe = t.portWe
  repeatCount : s.repeatCount = t.repeatCount
  dlyRst : s.dlyRst = t.dlyRst
  dlyBit : s.dlyBit = t.dlyBit
  err : s.err = t.err
  errCode : s.errCode = t.errCode
  rspValid : s.rspValid = t.rspValid
  response : s.rspValid = true → s.rspErr = t.rspErr ∧ s.rspData = t.rspData
  mode : s.mode = t.mode
  inputs : s.inputs = t.inputs
  filling : s.mode = .fill → s.fcnt = t.fcnt ∧ s.fval = t.fval
  serializing : s.mode = .ser → s.src = t.src ∧ s.sh = t.sh ∧ s.b = t.b ∧ s.phase = t.phase ∧ s.dcnt = t.dcnt
  scanning : s.mode = .ser → s.src = .scan → s.i = t.i ∧ s.k = t.k ∧ s.j = t.j

end Sys2Proof.Machine
end

