-- ==== Sys2Proof/Certificates/Slice0/Obligations.lean ====
section
/-! DEFINITION. The statements about FBCORE, from the numbered rules of spec/. Each docstring names the rule it formalises.
"Marked derived" means that the spec marks the sentence as its own inference from the rules named with it. -/

open Sys2Proof Sys2Proof.Machine

/-! ### Encoding -/

/-- Decoding the word of a command gives the command back, every operand at every value (30_encoding.md R60, R66; no bit is dropped). The
word `encode` gives the reserved command is the model's choice (log entry 8). -/
def Obligations.DecodeOfEncodeIsTheCommand : Prop :=
  ∀ i : Instr, i.wellFormed = true → decode (encode i) = i

/-- Encoding what a word decodes to keeps exactly the bits the command reads and clears the others (30_encoding.md R60, R66, R67). For a
reserved word this says that `encode` gives OP 0x8 with every other field 0, which no rule gives: it is the model's choice (log entry 8). -/
def Obligations.EncodeOfDecodeKeepsTheUsedBits : Prop :=
  ∀ w : Word, encode (decode w) = w &&& usedBits (decode w)

/-- The decoder is total and picks the one row of the opcode table that selects the word (30_encoding.md R66, R69, marked derived). -/
def Obligations.DecoderPicksTheOneSelectingRow : Prop :=
  (∀ w : Word, w &&& rowMask (decode w) = rowMatch (decode w)) ∧
  ∀ (w : Word) (i : Instr), w &&& rowMask i = rowMatch i → rowMatch (decode w) = rowMatch i

/-- R67: words with one OP and the used fields equal decode to one command, so they do the same thing in every state. -/
def Obligations.IgnoredFieldsChangeNothing : Prop :=
  ∀ w w' : Word, opField w = opField w' →
    (opField w = 1 ∨ opField w = 2 ∨ opField w = 6 ∨ opField w = 7 → raField w = raField w') →
    (opField w = 1 ∨ opField w = 2 → cbField w = cbField w') →
    (opField w = 1 ∨ opField w = 3 ∨ opField w = 4 ∨ opField w = 6 → valueField w = valueField w') →
    decode w = decode w' ∧ ∀ s : State, edge (.offer w) s = edge (.offer w') s

/-- R65: the value operand of WR, FILL, EMIT and CFGW is bits 7 to 0 of the word; bits 15 to 8 are discarded. -/
def Obligations.ValueOperandIsTheLowByte : Prop :=
  ∀ w : Word, dataField w = w.extractLsb' 0 16 ∧
    (opField w = 1 → decode w = .wr (raField w) (cbField w) (w.extractLsb' 0 8)) ∧
    (opField w = 3 → decode w = .fill (w.extractLsb' 0 8)) ∧
    (opField w = 4 → decode w = .emit (w.extractLsb' 0 8)) ∧
    (opField w = 6 → decode w = .cfgw (raField w) (w.extractLsb' 0 8))

/-- Words written out in 95_test_vectors.md section 2.1 decode to the commands that stand beside them there. -/
def Obligations.SampleWordsDecode : Prop :=
  decode 0x0FFFFFFF = .nop ∧ decode 0x135F00B0 = .wr 3 5 0xB0 ∧ decode 0x2350ABCD = .rd 3 5 ∧
  decode 0x300001FF = .fill 0xFF ∧ decode 0x400001FF = .emit 0xFF ∧ decode 0x5FFFFFFF = .refresh ∧
  decode 0x61000003 = .cfgw 1 3 ∧ decode 0x73000000 = .cfgr 3 ∧ decode 0xF1234567 = .illegal

/-- R68: OP 0x8 to 0xF, and no other word, is illegal; accepting one raises ILLEGAL and has no other effect. -/
def Obligations.ReservedOpcodesRaiseIllegal : Prop :=
  (∀ w : Word, decode w = .illegal ↔ 8 ≤ (opField w).toNat) ∧
  ∀ s : State, exec .illegal s = .next { s with err := true, errCode := if s.err then s.errCode else 0b10 }

/-- R71: the word of a command whose numbers fit their fields is the one of the rule's table, and decodes to that command; a line whose
numbers fit assembles to the words of its commands in order, and a line with a number that does not fit is rejected. -/
def Obligations.AssemblerWordsFollowTheSyntaxTable : Prop :=
  (∀ c : AsmCmd, c.wellFormed = true → decode c.word = c.instr) ∧
  (∀ r c v : Nat, r ≤ 15 → c ≤ 15 → v ≤ 0xFFFF →
    (AsmCmd.wr r c v).word = BitVec.ofNat 32 ((0x1 <<< 28) ||| (r <<< 24) ||| (c <<< 20) ||| v) ∧
    (AsmCmd.rd r c).word = BitVec.ofNat 32 ((0x2 <<< 28) ||| (r <<< 24) ||| (c <<< 20)) ∧
    (AsmCmd.fill v).word = BitVec.ofNat 32 ((0x3 <<< 28) ||| v) ∧
    (AsmCmd.emit v).word = BitVec.ofNat 32 ((0x4 <<< 28) ||| v) ∧
    (AsmCmd.cfgw r v).word = BitVec.ofNat 32 ((0x6 <<< 28) ||| (r <<< 24) ||| v) ∧
    (AsmCmd.cfgr r).word = BitVec.ofNat 32 ((0x7 <<< 28) ||| (r <<< 24))) ∧
  AsmCmd.nop.word = 0x00000000 ∧ AsmCmd.refresh.word = 0x50000000 ∧
  (∀ l : AsmLine, l.assemble = none ↔ ∃ c ∈ l.expand, c.wellFormed = false) ∧
  ∀ l : AsmLine, (∀ c ∈ l.expand, c.wellFormed = true) → l.assemble = some (l.expand.map AsmCmd.word)

/-- R72: the words of each pseudo-instruction are those of the commands the rule's table expands it to, in order, register selects by the
numbers of 43_config.md R109. -/
def Obligations.PseudoInstructionsExpandInOrder : Prop :=
  AsmLine.clear.assemble = some [0x30000000] ∧
  AsmLine.clrErr.assemble = some [0x63000002] ∧
  (∀ n : Nat, n ≤ 0xFFFF → (AsmLine.setRepeat n).assemble = some [BitVec.ofNat 32 ((0x6 <<< 28) ||| n)]) ∧
  (∀ a b : Nat, a ≤ 0xFFFF → b ≤ 0xFFFF → (AsmLine.setDelay a b).assemble =
    some [BitVec.ofNat 32 ((0x6 <<< 28) ||| (1 <<< 24) ||| a), BitVec.ofNat 32 ((0x6 <<< 28) ||| (2 <<< 24) ||| b)]) ∧
  ∀ r c v : Nat, r ≤ 15 → c ≤ 15 → v ≤ 0xFFFF → (AsmLine.set r c v).assemble =
    some [BitVec.ofNat 32 ((0x1 <<< 28) ||| (r <<< 24) ||| (c <<< 20) ||| v)]

/-! ### The edge, reset and the handshake -/

/-- R36: what an edge does, by `rst`, MODE and `cmd_valid`. A step takes the next edge's inputs from the model's list (log entry 1). -/
def Obligations.StepFollowsResetModeAndValid : Prop :=
  ∀ (s : State) (inp : EdgeInput) (rest : List EdgeInput), s.inputs = inp :: rest →
    let d := { s with portWe := false, rspValid := false, inputs := rest }
    (inp.rst = true → step s = .next { State.reset with inputs := rest }) ∧
    (inp.rst = false → s.mode = .idle → inp.cmdValid = true → step s = exec (decode inp.cmdWord) d) ∧
    (inp.rst = false → s.mode = .idle → inp.cmdValid = false → step s = .next d) ∧
    (inp.rst = false → s.mode = .fill → step s = .next d.fillStep) ∧
    (inp.rst = false → s.mode = .ser → step s = .next d.serStep)

/-- The next step after a word is placed for fetching runs the command the word decodes to, on the state with the edge's defaults
(30_encoding.md R70; placing a word is the model's own, log entry 3). -/
def Obligations.PlacedWordIsRunByTheNextStep : Prop :=
  ∀ (s : State) (w : Word),
    step (s.withFetchWord 32 w.toNat) =
      exec (decode w) { s with mode := .idle, portWe := false, rspValid := false, inputs := s.inputs.tail }

/-- R16: a word is accepted exactly when `cmd_valid` and `cmd_ready` are 1; where `cmd_ready = 1` and `cmd_valid = 0`, only the edge's defaults
happen, whatever stands on `cmd_word`; where `cmd_ready = 0`, what the host offers changes nothing. -/
def Obligations.UnreadyCommandIsNotTaken : Prop :=
  (∀ (s : State) (inp : EdgeInput), s.cmdReady inp.rst = true → inp.cmdValid = true →
    edge inp s = exec (decode inp.cmdWord) { s with portWe := false, rspValid := false }) ∧
  (∀ (s : State) (inp : EdgeInput), s.cmdReady inp.rst = true → inp.cmdValid = false →
    edge inp s = .next { s with portWe := false, rspValid := false }) ∧
  ∀ (s : State) (rst v v' : Bool) (w w' : Word), s.cmdReady rst = false →
    edge { rst := rst, cmdValid := v, cmdWord := w } s = edge { rst := rst, cmdValid := v', cmdWord := w' } s

/-- R127: at an edge with `rst = 1` every element takes its reset value, whatever the state was, and the outputs are those the rule lists. -/
def Obligations.ResetEdgeSetsEveryElement : Prop :=
  ∀ (s : State) (inp : EdgeInput), inp.rst = true → ∃ t : State, edge inp s = .next t ∧
    (∀ a : CellAddr, t.fb.read a = 0x00) ∧ t.port = 0x00 ∧ t.portWe = false ∧
    t.repeatCount = 0x08 ∧ t.dlyRst = 0x00 ∧ t.dlyBit = 0x00 ∧ t.err = false ∧ t.errCode = 0b00 ∧
    t.rspValid = false ∧ t.rspErr = false ∧ t.rspData = 0x00 ∧ t.mode = .idle ∧ t.src = .emit ∧
    t.fcnt = 0 ∧ t.fval = 0x00 ∧ t.sh = 0x00 ∧ t.b = 0 ∧ t.phase = .w0 ∧ t.dcnt = 0x00 ∧ t.i = 0 ∧ t.k = 0x00 ∧ t.j = 0 ∧
    t.inputs = s.inputs ∧ s.cmdReady true = false ∧
    t.outputs true = { cmdReady := false, rspValid := false, rspErr := false, rspData := 0x00, portData := 0x00,
                       portWe := false, busy := false, err := false }

/-- R128: `cmd_ready = 0` while `rst = 1`; `rst` held for any number of edges leaves the reset state, no word offered meanwhile is accepted,
and the first edge with `rst = 0` accepts the word offered at it. -/
def Obligations.HeldResetThenFirstCommand : Prop :=
  (∀ t : State, t.cmdReady true = false) ∧
  ∀ (s : State) (held rest : List EdgeInput) (w : Word), held ≠ [] → (∀ inp ∈ held, inp.rst = true) →
    s.inputs = held ++ .offer w :: rest →
    Sys2Proof.core.run held.length s = .next { State.reset with inputs := .offer w :: rest } ∧
    Sys2Proof.core.run (held.length + 1) s = exec (decode w) { State.reset with inputs := rest }

/-- After a reset edge, no port write happens until the host offers a command (70_reset_and_hazards.md R130; that the list of inputs may
end is the model's choice, log entry 1). -/
def Obligations.NoPortWriteAfterReset : Prop :=
  ∀ (s : State) (e n : Nat), s.nextInput.rst = true → (∀ inp ∈ s.inputs.tail.take n, inp.cmdValid = false) →
    portWrites e (n + 1) s = []

/-- No run of any length stops with a fault or a refusal: every word is a command and every error is recorded
(60_exceptions.md R113 to R115, 30_encoding.md R69). -/
def Obligations.NoRunStops : Prop :=
  ∀ (n : Nat) (s : State), ∃ t : State, Sys2Proof.core.run n s = .next t

/-- The outputs are the functions of the state that 10_state.md R37 and R40 list, so `busy` and `cmd_ready` exclude each other. -/
def Obligations.OutputsAreFunctionsOfState : Prop :=
  ∀ (s : State) (rst : Bool),
    s.outputs rst = { cmdReady := (s.mode == .idle) && !rst, rspValid := s.rspValid, rspErr := s.rspErr, rspData := s.rspData,
                      portData := s.port, portWe := s.portWe, busy := s.mode != .idle, err := s.err } ∧
    ((s.outputs rst).cmdReady = true → (s.outputs rst).busy = false)

/-! ### Whole-machine rules: only these edges change this state -/

/-- Port write events happen at the W0 and W1 edges of the serializer and at no other, with `P_RESET` and the bit pattern of SH[0]; at
every other edge outside reset PORT keeps its value (10_state.md R17, 41_serializer.md R88). -/
def Obligations.PortWritesOnlyAtSerializerWrites : Prop :=
  ∀ s t : State, step s = .next t →
    (t.portWe = true ↔ s.nextInput.rst = false ∧ s.mode = .ser ∧ (s.phase = .w0 ∨ s.phase = .w1)) ∧
    (t.portWe = true → s.phase = .w0 → t.port = 0x00) ∧
    (t.portWe = true → s.phase = .w1 → t.port = if s.sh.getLsbD 0 then Config.pOne else Config.pZero) ∧
    (t.portWe = false → s.nextInput.rst = false → t.port = s.port)

/-- R18: `rsp_valid` is set exactly at an edge that accepts an RD or a CFGR, with `rsp_err` and `rsp_data` as the command's rule says (R76,
R108); otherwise, outside reset, `rsp_err` and `rsp_data` keep their values. -/
def Obligations.OnlyReadsRespond : Prop :=
  ∀ s t : State, step s = .next t →
    (t.rspValid = true ↔ ∃ i : Instr, accepted s.nextInput s = some i ∧ ((∃ r c, i = .rd r c) ∨ ∃ sel, i = .cfgr sel)) ∧
    (∀ r c : Nibble, accepted s.nextInput s = some (.rd r c) →
      t.rspErr = !inRange r c ∧ t.rspData = if inRange r c then s.fb.read (addr r c) else 0x00) ∧
    (∀ sel : Nibble, accepted s.nextInput s = some (.cfgr sel) →
      t.rspErr = decide (6 ≤ sel.toNat) ∧
      t.rspData = match configReg sel with
        | some r => s.configRead r
        | none => 0x00) ∧
    (t.rspValid = false → s.nextInput.rst = false → t.rspErr = s.rspErr ∧ t.rspData = s.rspData)

/-- R26: ERR is set only by a rejected command, and cleared only by CFGW STATUS with data bit 1 = 1 or by reset, and it drives `err`; ERRCODE
takes the code of the error that set ERR, and later errors leave it (R114, R116). -/
def Obligations.ErrorRecordKeepsTheFirstError : Prop :=
  ∀ s t : State, step s = .next t →
    (s.nextInput.rst = true → t.err = false ∧ t.errCode = 0b00) ∧
    (∀ (i : Instr) (c : ErrorCause), accepted s.nextInput s = some i → rejection i = some c →
      t.err = true ∧ t.errCode = if s.err then s.errCode else c.code) ∧
    (∀ i : Instr, accepted s.nextInput s = some i → rejection i = none → clearsError i = true → t.err = false ∧ t.errCode = 0b00) ∧
    (∀ i : Instr, accepted s.nextInput s = some i → rejection i = none → clearsError i = false →
      t.err = s.err ∧ t.errCode = s.errCode) ∧
    (s.nextInput.rst = false → accepted s.nextInput s = none → t.err = s.err ∧ t.errCode = s.errCode) ∧
    ∀ rst : Bool, (t.outputs rst).err = t.err

/-- FB changes only by WR, by FILL and by reset (20_memory.md R42; 40_framebuffer.md R82, marked derived), and each such edge changes the
one cell it names. -/
def Obligations.FramebufferChangesOnlyByWrFillReset : Prop :=
  ∀ s t : State, step s = .next t → s.nextInput.rst = false →
    ∀ a : CellAddr, t.fb.read a ≠ s.fb.read a →
      (s.mode = .fill ∧ a = s.fcnt) ∨
      ∃ r c v, accepted s.nextInput s = some (.wr r c v) ∧ inRange r c = true ∧ a = addr r c

/-- REPEAT, DLY_RST and DLY_BIT change only by an accepted CFGW to their own select, which no running command overlaps
(43_config.md R110, marked derived, and R105). -/
def Obligations.ConfigChangesOnlyByCfgw : Prop :=
  ∀ s t : State, step s = .next t → s.nextInput.rst = false →
    (t.repeatCount ≠ s.repeatCount → s.mode = .idle ∧ accepted s.nextInput s = some (.cfgw 0 t.repeatCount)) ∧
    (t.dlyRst ≠ s.dlyRst → s.mode = .idle ∧ accepted s.nextInput s = some (.cfgw 1 t.dlyRst)) ∧
    (t.dlyBit ≠ s.dlyBit → s.mode = .idle ∧ accepted s.nextInput s = some (.cfgw 2 t.dlyBit))

/-- BUSY (MODE ≠ IDLE) is set only at the edge that accepts a FILL, an EMIT or a REFRESH that starts a serialization, and cleared only at
the edge at which that command completes, or by reset (10_state.md R29, R39). -/
def Obligations.BusyFromAcceptanceToCompletion : Prop :=
  ∀ s t : State, step s = .next t → s.nextInput.rst = false →
    (s.mode = .idle → (t.mode = .fill ↔ ∃ v, accepted s.nextInput s = some (.fill v)) ∧
      (t.mode = .ser ↔ (∃ v, accepted s.nextInput s = some (.emit v)) ∨
        (accepted s.nextInput s = some .refresh ∧ s.repeatCount ≠ 0))) ∧
    (s.mode = .fill → t.mode = if s.fcnt = 63 then .idle else .fill) ∧
    (s.mode = .ser → t.mode = if s.cellEnds = true ∧ (s.src = .emit ∨ s.scanNext = none) then .idle else .ser)

/-- A NOP, WR, RD, CFGW, CFGR or rejected command has no busy edge: the next command can be accepted at the next edge
(70_reset_and_hazards.md R143, R144). -/
def Obligations.SingleEdgeCommandsStayReady : Prop :=
  ∀ (i : Instr) (s : State), singleEdge i = true → s.mode = .idle →
    ∃ t : State, exec i s = .next t ∧ t.cmdReady false = true ∧ t.port = s.port ∧ t.portWe = s.portWe

/-! ### The array and its ports -/

/-- R48, R49, R50, R51: a read gives the contents before the edge, even of a cell the other port writes; a write is what is read after the
edge; port A wins where both write one cell; no other cell changes. -/
def Obligations.ArrayPortsReadOldWriteNewAWins : Prop :=
  ∀ (m : Memory) (p q : PortReq), m.wf = true →
    (p.en = true → p.we = false → p.rdata m = some (m.read p.addr)) ∧
    (p.en = true → p.we = true → (arrayEdge m p q).read p.addr = p.wdata) ∧
    (q.en = true → q.we = true → (p.en = true → p.we = true → p.addr ≠ q.addr) → (arrayEdge m p q).read q.addr = q.wdata) ∧
    (∀ a : CellAddr, (p.en = true → p.we = true → p.addr ≠ a) → (q.en = true → q.we = true → q.addr ≠ a) →
      (arrayEdge m p q).read a = m.read a)

/-- At every edge outside reset FB is what its two ports, with the signals driven on them, make of it; an RD in range reads its cell through
port A, and the scanner reads each cell it loads through port B (20_memory.md R46 to R49, 42_scanner.md R96 to R98;
port B at the edge that accepts a REFRESH: log entry 6). -/
def Obligations.FramebufferIsTheTwoPortArray : Prop :=
  ∀ s t : State, step s = .next t → s.nextInput.rst = false →
    t.fb = arrayEdge s.fb (portA s.nextInput s) (portB s.nextInput s) ∧
    (∀ d : Byte, (portA s.nextInput s).rdata s.fb = some d → t.rspValid = true ∧ t.rspErr = false ∧ t.rspData = d) ∧
    (∀ d : Byte, (portB s.nextInput s).rdata s.fb = some d → t.mode = .ser ∧ t.src = .scan ∧ t.sh = d) ∧
    (∀ r c : Nibble, accepted s.nextInput s = some (.rd r c) → inRange r c = true →
      (portA s.nextInput s).addr = addr r c ∧ (portA s.nextInput s).rdata s.fb = some t.rspData) ∧
    (accepted s.nextInput s = some .refresh → s.repeatCount ≠ 0 →
      (portB s.nextInput s).addr = scanAddr 0 0 ∧ (portB s.nextInput s).rdata s.fb = some t.sh) ∧
    (∀ p : ScanPos, s.cellEnds = true → s.src = .scan → s.scanNext = some p →
      (portB s.nextInput s).addr = scanAddr p.i p.j ∧ (portB s.nextInput s).rdata s.fb = some t.sh)

/-- The two ports are never enabled at one edge, port A is enabled only for a WR, an RD or a FILL step, and port B never writes
(20_memory.md R47, R52, marked derived; port B at the edge that accepts a REFRESH: log entry 6). -/
def Obligations.PortsAreNeverEnabledTogether : Prop :=
  ∀ (inp : EdgeInput) (s : State),
    ¬ ((portA inp s).en = true ∧ (portB inp s).en = true) ∧
    (portB inp s).we = false ∧ (portB inp s).wdata = 0x00 ∧
    ((portA inp s).en = true → s.mode = .fill ∨
      (s.mode = .idle ∧ ∃ i : Instr, accepted inp s = some i ∧ ((∃ r c v, i = .wr r c v) ∨ ∃ r c, i = .rd r c)))

/-- R44: in range, `addr(r, c) = 8·r + c`, and different cells have different addresses. -/
def Obligations.CellAddressIsRowMajor : Prop :=
  (∀ r c : Nibble, inRange r c = true ↔ r.toNat < 8 ∧ c.toNat < 8) ∧
  (∀ r c : Nibble, inRange r c = true → (addr r c).toNat = 8 * r.toNat + c.toNat) ∧
  ∀ r c r' c' : Nibble, inRange r c = true → inRange r' c' = true → addr r c = addr r' c' → r = r' ∧ c = c'

/-- The cell that WR r, c writes is serialized exactly at the scan positions with J = r and I = c (42_scanner.md R97; R103, marked derived). -/
def Obligations.ScanTransposesRowsAndColumns : Prop :=
  ∀ (r c : Nibble) (i j : Index), inRange r c = true →
    (scanAddr i j = addr r c ↔ j.toNat = r.toNat ∧ i.toNat = c.toNat)

/-! ### Framebuffer commands -/

/-- R74: NOP does nothing; the defaults of its edge still apply. -/
def Obligations.NopChangesNothing : Prop :=
  (∀ s : State, exec .nop s = .next s) ∧
  ∀ (s : State) (w : Word), s.mode = .idle → opField w = 0 →
    edge (.offer w) s = .next { s with portWe := false, rspValid := false }

/-- R75, with the frame of a storing command: WR in range writes the one cell `addr(r, c)` and nothing else; out of range it raises RANGE and
changes nothing else. -/
def Obligations.WrStoresTheOneCell : Prop :=
  ∀ (r c : Nibble) (v : Byte) (s : State),
    (8 ≤ r.toNat ∨ 8 ≤ c.toNat → exec (.wr r c v) s = .next { s with err := true, errCode := if s.err then s.errCode else 0b01 }) ∧
    (r.toNat < 8 → c.toNat < 8 → s.fb.wf = true →
      ∃ t : State, exec (.wr r c v) s = .next t ∧ t = { s with fb := t.fb } ∧ t.fb.wf = true ∧ t.fb.read (addr r c) = v ∧
        ∀ a : CellAddr, a ≠ addr r c → t.fb.read a = s.fb.read a)

/-- R73: a WR or RD of a row or column 8 to 15 raises RANGE, does not touch FB, and changes nothing else but the RD's error response. -/
def Obligations.OutOfRangeIsRejected : Prop :=
  ∀ (r c : Nibble) (v : Byte) (s : State), 8 ≤ r.toNat ∨ 8 ≤ c.toNat →
    exec (.wr r c v) s = .next { s with err := true, errCode := if s.err then s.errCode else 0b01 } ∧
    exec (.rd r c) s = .next { s with err := true, errCode := if s.err then s.errCode else 0b01,
                                      rspValid := true, rspErr := true, rspData := 0x00 }

/-- R76: RD in range answers with the cell's value and changes nothing else; out of range it raises RANGE and gives the error response. -/
def Obligations.RdRespondsWithTheCell : Prop :=
  ∀ (r c : Nibble) (s : State),
    (r.toNat < 8 → c.toNat < 8 →
      exec (.rd r c) s = .next { s with rspValid := true, rspErr := false, rspData := s.fb.read (addr r c) }) ∧
    (8 ≤ r.toNat ∨ 8 ≤ c.toNat →
      exec (.rd r c) s = .next { s with err := true, errCode := if s.err then s.errCode else 0b01,
                                        rspValid := true, rspErr := true, rspData := 0x00 })

/-- An RD right after a WR of the same cell returns the new value, and of another cell the old one (40_framebuffer.md R76; R81, marked
derived). -/
def Obligations.ReadAfterWriteSeesTheWrite : Prop :=
  ∀ (s : State) (w w' : Word) (rest : List EdgeInput) (r c r' c' : Nibble) (v : Byte),
    s.mode = .idle → s.fb.wf = true → s.inputs = .offer w :: .offer w' :: rest →
    decode w = .wr r c v → decode w' = .rd r' c' → inRange r c = true → inRange r' c' = true →
    ∃ t : State, Sys2Proof.core.run 2 s = .next t ∧ t.rspValid = true ∧ t.rspErr = false ∧
      t.rspData = if r' = r ∧ c' = c then v else s.fb.read (addr r' c')

/-- FILL v sets FVAL, FCNT and MODE and nothing else at its accepting edge (40_framebuffer.md R77). -/
def Obligations.FillStartsAtCellZero : Prop :=
  ∀ (v : Byte) (s : State), exec (.fill v) s = .next { s with fval := v, fcnt := 0, mode := .fill }

/-- R78: an edge with MODE = FILL writes FVAL to cell FCNT and nothing else, and goes to the next cell or, at cell 63, to IDLE. -/
def Obligations.FillStepWritesOneCell : Prop :=
  ∀ (s : State) (inp : EdgeInput), inp.rst = false → s.mode = .fill → s.fb.wf = true →
    ∃ t : State, edge inp s = .next t ∧ t.fb.read s.fcnt = s.fval ∧ (∀ a : CellAddr, a ≠ s.fcnt → t.fb.read a = s.fb.read a) ∧
      t = { s with fb := t.fb, portWe := false, rspValid := false,
                   fcnt := if s.fcnt = 63 then s.fcnt else s.fcnt + 1,
                   mode := if s.fcnt = 63 then .idle else .fill }

/-- R77, R78: a FILL accepted at an edge is busy for the next 64 edges, whatever the host offers meanwhile, writes cell n at the n-th of them
(counted from 0), makes no port write and no response, and leaves v in all 64 cells and everything visible else as it was. -/
def Obligations.FillFillsAllCellsIn64Edges : Prop :=
  ∀ (s : State) (w : Word) (v : Byte) (rest : List EdgeInput) (e : Nat),
    s.mode = .idle → s.fb.wf = true → s.inputs = .offer w :: rest → decode w = .fill v → noReset 65 s = true →
    (∃ t : State, Sys2Proof.core.run 65 s = .next t ∧ t.mode = .idle ∧ (∀ a : CellAddr, t.fb.read a = v) ∧
      t.port = s.port ∧ t.repeatCount = s.repeatCount ∧ t.dlyRst = s.dlyRst ∧ t.dlyBit = s.dlyBit ∧
      t.err = s.err ∧ t.errCode = s.errCode ∧ t.inputs = rest.drop 64) ∧
    (∀ n : Nat, n < 64 → ∃ u : State, Sys2Proof.core.run (n + 1) s = .next u ∧ u.mode = .fill ∧ u.fcnt.toNat = n ∧
      ∀ a : CellAddr, u.fb.read a = if a.toNat < n then v else s.fb.read a) ∧
    portWrites e 65 s = [] ∧ responses e 65 s = []

/-- After FILL v completes, the next RD of any cell in range returns v (40_framebuffer.md R80, marked derived). -/
def Obligations.FillThenReadReturnsTheValue : Prop :=
  ∀ (s : State) (w w' : Word) (v : Byte) (r c : Nibble) (rest rest' : List EdgeInput),
    s.mode = .idle → s.fb.wf = true → s.inputs = .offer w :: rest → decode w = .fill v → noReset 65 s = true →
    rest.drop 64 = .offer w' :: rest' → decode w' = .rd r c → inRange r c = true →
    ∃ t : State, Sys2Proof.core.run 66 s = .next t ∧ t.rspValid = true ∧ t.rspErr = false ∧ t.rspData = v

/-! ### The serializer -/

/-- EMIT v loads the serializer with v and sets SRC and MODE, and nothing else at its accepting edge (41_serializer.md R84, R85). -/
def Obligations.EmitLoadsTheSerializer : Prop :=
  ∀ (v : Byte) (s : State),
    exec (.emit v) s = .next { s with src := .emit, sh := v, b := 0, phase := .w0, dcnt := 0x00, mode := .ser }

/-- R88: the micro-steps of a pulse, each with its whole effect; the last one of a bit goes to `bit_done`. -/
def Obligations.SerializerMicroSteps : Prop :=
  ∀ (s : State) (inp : EdgeInput), inp.rst = false → s.mode = .ser →
    let d := { s with portWe := false, rspValid := false }
    let p := { d with port := if s.sh.getLsbD 0 then Config.pOne else Config.pZero, portWe := true, sh := s.sh >>> 1 }
    (s.phase = .w0 → edge inp s = .next
      (if s.dlyRst = 0 then { d with port := 0x00, portWe := true, phase := .w1 }
       else { d with port := 0x00, portWe := true, dcnt := s.dlyRst - 1, phase := .h0 })) ∧
    (s.phase = .h0 → edge inp s = .next (if s.dcnt = 0 then { d with phase := .w1 } else { d with dcnt := s.dcnt - 1 })) ∧
    (s.phase = .w1 → edge inp s = .next (if s.dlyBit = 0 then p.bitDone else { p with dcnt := s.dlyBit - 1, phase := .h1 })) ∧
    (s.phase = .h1 → edge inp s = .next (if s.dcnt = 0 then d.bitDone else { d with dcnt := s.dcnt - 1 }))

/-- R89: a bit before the last goes on to the next bit's W0; the last bit ends an EMIT, and advances a scan. -/
def Obligations.BitDoneGoesToTheNextBit : Prop :=
  ∀ s : State,
    (s.b.toNat < 7 → s.bitDone = { s with b := s.b + 1, phase := .w0 } ∧ (s.b + 1).toNat = s.b.toNat + 1) ∧
    (s.b = 7 → s.src = .emit → s.bitDone = { s with mode := .idle }) ∧
    (s.b = 7 → s.src = .scan → s.bitDone = s.scanAdvance)

/-- The two bit patterns are distinct, so the pattern written tells the bit (00_scope.md R7, 41_serializer.md R87). -/
def Obligations.PatternTellsTheBit : Prop :=
  Config.pOne ≠ Config.pZero ∧ pattern true = Config.pOne ∧ pattern false = Config.pZero ∧
  ∀ x y : Bool, pattern x = pattern y → x = y

/-- An EMIT accepted at edge e makes exactly the 16 port writes of R91 at the edges of R93, whatever the host offers meanwhile, completes at
edge e + 8·T, and leaves FB and the registers as they were and PORT at the last bit's pattern (41_serializer.md R91 and R93, marked derived,
and R94). -/
def Obligations.EmitWritesEightPulsesLsbFirst : Prop :=
  ∀ (s : State) (w : Word) (v : Byte) (rest : List EdgeInput) (e : Nat),
    s.mode = .idle → s.inputs = .offer w :: rest → decode w = .emit v → noReset (1 + 8 * s.pulseEdges) s = true →
    (∃ t : State, Sys2Proof.core.run (1 + 8 * s.pulseEdges) s = .next t ∧ t.mode = .idle ∧ t.port = pattern (v.getLsbD 7) ∧
      t.fb = s.fb ∧ t.repeatCount = s.repeatCount ∧ t.dlyRst = s.dlyRst ∧ t.dlyBit = s.dlyBit ∧
      t.err = s.err ∧ t.errCode = s.errCode ∧ t.inputs = rest.drop (8 * s.pulseEdges)) ∧
    (∀ n : Nat, 1 ≤ n → n ≤ 8 * s.pulseEdges → ∃ u : State, Sys2Proof.core.run n s = .next u ∧ u.mode = .ser) ∧
    portWrites e (1 + 8 * s.pulseEdges) s = serialWrites s.dlyRst s.dlyBit e v ∧
    responses e (1 + 8 * s.pulseEdges) s = []

/-- The delays change only the edges of an EMIT's port writes, never their values or order (41_serializer.md R90): under any two settings the
same word gives the same values. -/
def Obligations.DelaysKeepValuesAndOrder : Prop :=
  ∀ (s s' : State) (w : Word) (v : Byte) (rest rest' : List EdgeInput) (e : Nat),
    s.mode = .idle → s'.mode = .idle → s.inputs = .offer w :: rest → s'.inputs = .offer w :: rest' → decode w = .emit v →
    noReset (1 + 8 * s.pulseEdges) s = true → noReset (1 + 8 * s'.pulseEdges) s' = true →
    (portWrites e (1 + 8 * s.pulseEdges) s).map Prod.snd = (portWrites e (1 + 8 * s'.pulseEdges) s').map Prod.snd

/-! ### The scanner -/

/-- R96: REFRESH with REPEAT = 0 does nothing; else it starts the scan at position (0, 0, 0) with that cell loaded. -/
def Obligations.RefreshStartsTheScan : Prop :=
  ∀ s : State,
    (s.repeatCount = 0 → exec .refresh s = .next s) ∧
    (s.repeatCount ≠ 0 → exec .refresh s = .next { s with src := .scan, i := 0, k := 0, j := 0, sh := s.fb.read 0, b := 0,
                                                          phase := .w0, dcnt := 0x00, mode := .ser })

/-- R98: the scan advances J, then K below REPEAT, then I, loads the cell FB[addr(J', I')], and ends after the last position. -/
def Obligations.ScanAdvanceOrder : Prop :=
  ∀ s : State,
    let load := fun (i : Index) (k : Byte) (j : Index) =>
      ({ s with i := i, k := k, j := j, sh := s.fb.read (j ++ i), b := 0, phase := .w0, dcnt := 0x00 } : State)
    (s.j ≠ 7 → s.scanAdvance = load s.i s.k (s.j + 1)) ∧
    (s.j = 7 → s.k.toNat + 1 < s.repeatCount.toNat → s.scanAdvance = load s.i (s.k + 1) 0) ∧
    (s.j = 7 → s.repeatCount.toNat ≤ s.k.toNat + 1 → s.i ≠ 7 → s.scanAdvance = load (s.i + 1) 0 0) ∧
    (s.j = 7 → s.repeatCount.toNat ≤ s.k.toNat + 1 → s.i = 7 → s.scanAdvance = { s with mode := .idle })

/-- A REFRESH with REPEAT = R ≥ 1 accepted at edge e makes 64·R serializations in the order of R99, at the edges of R104, whatever the host
offers meanwhile, completes at edge e + 512·R·T, and leaves FB and the registers as they were (42_scanner.md R99 and R104, marked derived). -/
def Obligations.RefreshScansInFixedOrder : Prop :=
  ∀ (s : State) (w : Word) (rest : List EdgeInput) (e : Nat),
    let n := 512 * s.repeatCount.toNat * s.pulseEdges
    s.mode = .idle → s.repeatCount ≠ 0 → s.inputs = .offer w :: rest → decode w = .refresh → noReset (1 + n) s = true →
    (∃ t : State, Sys2Proof.core.run (1 + n) s = .next t ∧ t.mode = .idle ∧ t.fb = s.fb ∧ t.repeatCount = s.repeatCount ∧
      t.dlyRst = s.dlyRst ∧ t.dlyBit = s.dlyBit ∧ t.err = s.err ∧ t.errCode = s.errCode ∧ t.inputs = rest.drop n) ∧
    (∀ m : Nat, 1 ≤ m → m ≤ n → ∃ u : State, Sys2Proof.core.run m s = .next u ∧ u.mode = .ser) ∧
    portWrites e (1 + n) s = scanWrites s e ∧ responses e (1 + n) s = []

/-- A REFRESH makes 1024·R port writes (42_scanner.md R100, marked derived). -/
def Obligations.RefreshMakes1024WritesPerPass : Prop :=
  ∀ (s : State) (w : Word) (rest : List EdgeInput) (e : Nat),
    let n := 512 * s.repeatCount.toNat * s.pulseEdges
    s.mode = .idle → s.inputs = .offer w :: rest → decode w = .refresh → noReset (1 + n) s = true →
    (portWrites e (1 + n) s).length = 1024 * s.repeatCount.toNat

/-- The idempotence law: REFRESH commands accepted with the same FB, REPEAT, DLY_RST and DLY_BIT make identical port-write sequences, the same
values at the same edge offsets (42_scanner.md R101, marked derived). -/
def Obligations.RefreshIsIdempotent : Prop :=
  ∀ (s t : State) (w w' : Word) (rest rest' : List EdgeInput) (e : Nat),
    let n := 512 * s.repeatCount.toNat * s.pulseEdges
    s.mode = .idle → t.mode = .idle → s.fb = t.fb → s.repeatCount = t.repeatCount → s.dlyRst = t.dlyRst → s.dlyBit = t.dlyBit →
    s.inputs = .offer w :: rest → t.inputs = .offer w' :: rest' → decode w = .refresh → decode w' = .refresh →
    noReset (1 + n) s = true → noReset (1 + n) t = true →
    portWrites e (1 + n) s = portWrites e (1 + n) t

/-- No data-dependent timing: the edges of a REFRESH's port writes, and MODE at every edge, depend on REPEAT, DLY_RST and DLY_BIT and never on
the FB contents (42_scanner.md R101, marked derived). -/
def Obligations.RefreshTimingIgnoresTheCells : Prop :=
  ∀ (s t : State) (w w' : Word) (rest rest' : List EdgeInput) (e n : Nat),
    n ≤ 1 + 512 * s.repeatCount.toNat * s.pulseEdges →
    s.mode = .idle → t.mode = .idle → s.repeatCount = t.repeatCount → s.dlyRst = t.dlyRst → s.dlyBit = t.dlyBit →
    s.inputs = .offer w :: rest → t.inputs = .offer w' :: rest' → decode w = .refresh → decode w' = .refresh →
    noReset n s = true → noReset n t = true →
    (portWrites e n s).map Prod.fst = (portWrites e n t).map Prod.fst ∧
    ∃ u v : State, Sys2Proof.core.run n s = .next u ∧ Sys2Proof.core.run n t = .next v ∧ u.mode = v.mode

/-! ### Configuration -/

/-- R105: CFGW to selects 0 to 2 writes the register and nothing else; to select 3 it is the STATUS write of R106; to 4 to 15 it raises
BAD_REG and writes nothing else (R107). -/
def Obligations.CfgwWritesTheSelectedRegister : Prop :=
  ∀ (sel : Nibble) (v : Byte) (s : State),
    (sel = 0 → exec (.cfgw sel v) s = .next { s with repeatCount := v }) ∧
    (sel = 1 → exec (.cfgw sel v) s = .next { s with dlyRst := v }) ∧
    (sel = 2 → exec (.cfgw sel v) s = .next { s with dlyBit := v }) ∧
    (sel = 3 → v.getLsbD 1 = true → exec (.cfgw sel v) s = .next { s with err := false, errCode := 0b00 }) ∧
    (sel = 3 → v.getLsbD 1 = false → exec (.cfgw sel v) s = .next s) ∧
    (4 ≤ sel.toNat → exec (.cfgw sel v) s = .next { s with err := true, errCode := if s.err then s.errCode else 0b11 })

/-- R108: CFGR answers with the selected register, STATUS as `{0b0000, ERRCODE, ERR, 0}` where MODE is IDLE (R25), and changes nothing else; an
unimplemented select raises BAD_REG and gives the error response. -/
def Obligations.CfgrRespondsWithTheSelectedRegister : Prop :=
  ∀ (sel : Nibble) (s : State), s.mode = .idle →
    let answer := fun (d : Byte) => ({ s with rspValid := true, rspErr := false, rspData := d } : State)
    (sel = 0 → exec (.cfgr sel) s = .next (answer s.repeatCount)) ∧
    (sel = 1 → exec (.cfgr sel) s = .next (answer s.dlyRst)) ∧
    (sel = 2 → exec (.cfgr sel) s = .next (answer s.dlyBit)) ∧
    (sel = 3 → exec (.cfgr sel) s = .next (answer ((0 : Nibble) ++ s.errCode ++ BitVec.ofBool s.err ++ (0 : BitVec 1)))) ∧
    (sel = 4 → exec (.cfgr sel) s = .next (answer Config.pOne)) ∧
    (sel = 5 → exec (.cfgr sel) s = .next (answer Config.pZero)) ∧
    (6 ≤ sel.toNat → exec (.cfgr sel) s = .next { s with err := true, errCode := if s.err then s.errCode else 0b11,
                                                         rspValid := true, rspErr := true, rspData := 0x00 })

/-- R114: a rejected command changes at most ERR, ERRCODE and, for RD and CFGR, the response, which is `rsp_err = 1`, `rsp_data = 0x00`. -/
def Obligations.RejectedCommandHasNoOtherEffect : Prop :=
  ∀ (i : Instr) (c : ErrorCause) (s : State), rejection i = some c →
    exec i s = .next { s with err := true, errCode := if s.err then s.errCode else c.code,
                              rspValid := if responds i then true else s.rspValid,
                              rspErr := if responds i then true else s.rspErr,
                              rspData := if responds i then 0x00 else s.rspData }

/-! ### Invariants and what cannot be told apart -/

/-- The invariant holds right after reset. -/
def Obligations.ResetMeetsTheInvariant : Prop := Inv State.reset

/-- Every edge keeps the framebuffer's canonical form (the model's data form, log entry 4). -/
def Obligations.StepKeepsTheCanonicalFramebuffer : Prop :=
  ∀ s t : State, s.fb.wf = true → step s = .next t → t.fb.wf = true

/-- Every edge, from every state that meets it, keeps the invariant: the canonical framebuffer, the error record, PORT's values, and the hidden
state in step with the running command (10_state.md R18, R27; 40_framebuffer.md R78; 41_serializer.md R88 to R90; 42_scanner.md R97, R98). -/
def Obligations.StepKeepsTheInvariant : Prop :=
  ∀ s t : State, Inv s → step s = .next t → Inv t

/-- Canonical framebuffers with the same 64 cells are the same data (the model's data form, log entry 4). -/
def Obligations.FramebufferIsItsCells : Prop :=
  ∀ m m' : Memory, m.wf = true → m'.wf = true → (∀ a : CellAddr, m.read a = m'.read a) → m = m'

/-- Hidden state that a mode does not read is not observable: states alike but for it make the same port writes and the same responses, and stay
alike, over any number of edges (10_state.md R30 to R33). -/
def Obligations.UnreadHiddenStateIsUnobservable : Prop :=
  ∀ (s s' : State) (e n : Nat), LookAlike s s' →
    portWrites e n s = portWrites e n s' ∧ responses e n s = responses e n s' ∧
    ∃ t t' : State, Sys2Proof.core.run n s = .next t ∧ Sys2Proof.core.run n s' = .next t' ∧ LookAlike t t'
end

