-- ==== Sys2Proof/Laws/Config.lean ====
section
/-! SUPPORT. The OPEN parameters: the constraint of 00_scope.md R7 holds, and no pair that meets it is left out. -/

namespace Sys2Proof.Config

/-- `P_ONE != P_ZERO` (00_scope.md R7). -/
theorem pOne_ne_pZero : pOne ≠ pZero := by
  intro h
  have hn := congrArg BitVec.toNat h
  have hgap := patternGap.isLt
  have hz := pZero.isLt
  simp only [pOne, BitVec.toNat_add, BitVec.toNat_ofNat] at hn
  omega

/-- Every pair of distinct patterns arises from some value of the two OPEN constants. -/
theorem distinct_patterns_arise (one zero : Byte) (h : one ≠ zero) :
    ∃ gap : Fin 255, one = zero + BitVec.ofNat 8 (gap.val + 1) := by
  have hn : one.toNat ≠ zero.toNat := fun e => h (BitVec.eq_of_toNat_eq e)
  have h1 := one.isLt
  have h0 := zero.isLt
  refine ⟨⟨(one.toNat + 256 - zero.toNat) % 256 - 1, by omega⟩, BitVec.eq_of_toNat_eq ?_⟩
  simp only [BitVec.toNat_add, BitVec.toNat_ofNat]
  omega

end Sys2Proof.Config
end

