-- ==== Sys2Proof/Laws/Memory.lean ====
section
/-! SUPPORT. The framebuffer array as data: reads after writes, the canonical form, and equality by contents. -/

namespace Sys2Proof.Machine.Memory

@[simp] theorem read_nil (a : CellAddr) : Memory.read [] a = 0x00 := rfl

/-- In a canonical list from `lo` on, no address below `lo` is listed. -/
theorem lookup_below {lo a : Nat} {m : Memory} (h : wfFrom lo m = true) (ha : a < lo) : lookup a m = unlistedCell := by
  induction m generalizing lo with
  | nil => rfl
  | cons e rest ih =>
    obtain ⟨a', v⟩ := e
    simp only [wfFrom, Bool.and_eq_true, decide_eq_true_eq] at h
    rw [lookup, if_neg (by omega)]
    exact ih h.2 (by omega)

theorem wfFrom_mono {lo lo' : Nat} {m : Memory} (h : wfFrom lo m = true) (hl : lo' ≤ lo) : wfFrom lo' m = true := by
  cases m with
  | nil => rfl
  | cons e rest =>
    obtain ⟨a', v⟩ := e
    simp only [wfFrom, Bool.and_eq_true, decide_eq_true_eq] at h ⊢
    exact ⟨⟨⟨by omega, h.1.1.2⟩, h.1.2⟩, h.2⟩

/-- A put leaves the value at every other address. -/
theorem lookup_put_ne {a c : Nat} (v : Byte) (m : Memory) (h : c ≠ a) : lookup c (put a v m) = lookup c m := by
  induction m with
  | nil => simp only [put]; split <;> simp [lookup, Ne.symm h]
  | cons e rest ih =>
    obtain ⟨a', v'⟩ := e
    simp only [put]
    split
    · split
      · rfl
      · rw [lookup, if_neg (Ne.symm h)]
    · split
      next ha =>
        subst ha
        split <;> simp [lookup, Ne.symm h]
      next => simp only [lookup, ih]

/-- A put into a canonical list is what is read there afterwards. -/
theorem lookup_put_eq {lo a : Nat} (v : Byte) {m : Memory} (h : wfFrom lo m = true) : lookup a (put a v m) = v := by
  induction m generalizing lo with
  | nil => simp only [put]; split <;> simp_all [lookup]
  | cons e rest ih =>
    obtain ⟨a', v'⟩ := e
    simp only [wfFrom, Bool.and_eq_true, decide_eq_true_eq] at h
    simp only [put]
    split
    next hlt =>
      split
      next hv => rw [lookup, if_neg (by omega), lookup_below h.2 (by omega), hv]
      next => simp [lookup]
    next hge =>
      split
      next ha =>
        subst ha
        split
        next hv => rw [lookup_below h.2 (by omega), hv]
        next => simp [lookup]
      next hne => rw [lookup, if_neg (Ne.symm hne)]; exact ih h.2

/-- A put keeps the canonical form. -/
theorem put_wfFrom {lo a : Nat} (v : Byte) {m : Memory} (h : wfFrom lo m = true) (hlo : lo ≤ a) (ha : a < Config.cells) :
    wfFrom lo (put a v m) = true := by
  induction m generalizing lo with
  | nil => simp only [put]; split <;> simp_all [wfFrom]
  | cons e rest ih =>
    obtain ⟨a', v'⟩ := e
    have h' := h
    simp only [wfFrom, Bool.and_eq_true, decide_eq_true_eq] at h
    obtain ⟨⟨⟨h1, h2⟩, h3⟩, h4⟩ := h
    simp only [put]
    split
    next hlt =>
      split
      · exact h'
      next hv =>
        simp only [wfFrom, Bool.and_eq_true, decide_eq_true_eq]
        exact ⟨⟨⟨hlo, ha⟩, hv⟩, ⟨⟨by omega, h2⟩, h3⟩, h4⟩
    next hge =>
      split
      next he =>
        subst he
        split
        · exact wfFrom_mono h4 (by omega)
        next hv =>
          simp only [wfFrom, Bool.and_eq_true, decide_eq_true_eq]
          exact ⟨⟨⟨hlo, ha⟩, hv⟩, h4⟩
      next hne =>
        simp only [wfFrom, Bool.and_eq_true, decide_eq_true_eq]
        exact ⟨⟨⟨h1, h2⟩, h3⟩, ih h4 (by omega)⟩

theorem read_write_ne (m : Memory) {a c : CellAddr} (v : Byte) (h : c ≠ a) : (m.write a v).read c = m.read c :=
  lookup_put_ne v m fun e => h (BitVec.eq_of_toNat_eq e)

theorem read_write_eq {m : Memory} (h : m.wf = true) (a : CellAddr) (v : Byte) : (m.write a v).read a = v :=
  lookup_put_eq v h

theorem write_wf {m : Memory} (h : m.wf = true) (a : CellAddr) (v : Byte) : (m.write a v).wf = true :=
  put_wfFrom v h (Nat.zero_le _) a.isLt

/-- Canonical lists with the same contents are the same list. -/
theorem eq_of_lookup_eq {lo : Nat} {m m' : Memory} (h : wfFrom lo m = true) (h' : wfFrom lo m' = true)
    (he : ∀ a, a < Config.cells → lookup a m = lookup a m') : m = m' := by
  induction m generalizing lo m' with
  | nil =>
    cases m' with
    | nil => rfl
    | cons e rest =>
      obtain ⟨a, v⟩ := e
      simp only [wfFrom, Bool.and_eq_true, decide_eq_true_eq] at h'
      have := he a h'.1.1.2
      simp only [lookup, if_true] at this
      exact absurd this.symm h'.1.2
  | cons e rest ih =>
    obtain ⟨a, v⟩ := e
    simp only [wfFrom, Bool.and_eq_true, decide_eq_true_eq] at h
    obtain ⟨⟨⟨h1, h2⟩, h3⟩, h4⟩ := h
    cases m' with
    | nil =>
      have := he a h2
      simp only [lookup, if_true] at this
      exact absurd this h3
    | cons e' rest' =>
      obtain ⟨a', v'⟩ := e'
      simp only [wfFrom, Bool.and_eq_true, decide_eq_true_eq] at h'
      obtain ⟨⟨⟨g1, g2⟩, g3⟩, g4⟩ := h'
      have hb : a = a' := by
        by_contra hne
        rcases Nat.lt_or_gt_of_ne hne with hlt | hgt
        · have := he a h2
          rw [lookup, if_pos rfl, lookup, if_neg (by omega), lookup_below g4 (by omega)] at this
          exact h3 this
        · have := he a' g2
          rw [lookup, if_neg (by omega), lookup, if_pos rfl, lookup_below h4 (by omega)] at this
          exact g3 this.symm
      subst hb
      have hv : v = v' := by
        have := he a h2
        simpa [lookup] using this
      subst hv
      congr 1
      refine ih h4 g4 fun c hc => ?_
      by_cases hca : a = c
      · subst hca
        rw [lookup_below h4 (by omega), lookup_below g4 (by omega)]
      · have := he c hc
        simpa only [lookup, if_neg hca] using this

theorem eq_of_read_eq {m m' : Memory} (h : m.wf = true) (h' : m'.wf = true) (he : ∀ a, m.read a = m'.read a) : m = m' := by
  refine eq_of_lookup_eq h h' fun a ha => ?_
  have hb : (BitVec.ofNat 6 a).toNat = a := by
    rw [BitVec.toNat_ofNat]; exact Nat.mod_eq_of_lt ha
  have := he (BitVec.ofNat 6 a)
  simpa only [read, hb] using this

/-- Only the addressed cell can differ after both ports' edge; the ports' writes keep the canonical form (20_memory.md R49, R51). -/
theorem arrayEdge_wf {m : Memory} (h : m.wf = true) (p q : PortReq) : (arrayEdge m p q).wf = true := by
  unfold arrayEdge PortReq.commit
  split <;> split <;> first | exact h | exact write_wf h _ _ | exact write_wf (write_wf h _ _) _ _

@[simp] theorem arrayEdge_write_off (m : Memory) (a : CellAddr) (v : Byte) :
    arrayEdge m (.write a v) .off = m.write a v := rfl

@[simp] theorem arrayEdge_off_off (m : Memory) : arrayEdge m .off .off = m := rfl

end Sys2Proof.Machine.Memory
end

