-- ==== Sys2Proof/Laws/State.lean ====
section
/-! SUPPORT. One lemma per field per update of the state, each by unfolding the update once. -/

namespace Sys2Proof.Machine.State

/-! A host write changes FB alone (20_memory.md R49). -/

@[simp] theorem hostWrite_fb (s : State) (a : CellAddr) (v : Byte) : (s.hostWrite a v).fb = s.fb.write a v := rfl
@[simp] theorem hostWrite_port (s : State) (a : CellAddr) (v : Byte) : (s.hostWrite a v).port = s.port := rfl
@[simp] theorem hostWrite_portWe (s : State) (a : CellAddr) (v : Byte) : (s.hostWrite a v).portWe = s.portWe := rfl
@[simp] theorem hostWrite_repeatCount (s : State) (a : CellAddr) (v : Byte) : (s.hostWrite a v).repeatCount = s.repeatCount := rfl
@[simp] theorem hostWrite_dlyRst (s : State) (a : CellAddr) (v : Byte) : (s.hostWrite a v).dlyRst = s.dlyRst := rfl
@[simp] theorem hostWrite_dlyBit (s : State) (a : CellAddr) (v : Byte) : (s.hostWrite a v).dlyBit = s.dlyBit := rfl
@[simp] theorem hostWrite_err (s : State) (a : CellAddr) (v : Byte) : (s.hostWrite a v).err = s.err := rfl
@[simp] theorem hostWrite_errCode (s : State) (a : CellAddr) (v : Byte) : (s.hostWrite a v).errCode = s.errCode := rfl
@[simp] theorem hostWrite_rspValid (s : State) (a : CellAddr) (v : Byte) : (s.hostWrite a v).rspValid = s.rspValid := rfl
@[simp] theorem hostWrite_rspErr (s : State) (a : CellAddr) (v : Byte) : (s.hostWrite a v).rspErr = s.rspErr := rfl
@[simp] theorem hostWrite_rspData (s : State) (a : CellAddr) (v : Byte) : (s.hostWrite a v).rspData = s.rspData := rfl
@[simp] theorem hostWrite_mode (s : State) (a : CellAddr) (v : Byte) : (s.hostWrite a v).mode = s.mode := rfl
@[simp] theorem hostWrite_src (s : State) (a : CellAddr) (v : Byte) : (s.hostWrite a v).src = s.src := rfl
@[simp] theorem hostWrite_fcnt (s : State) (a : CellAddr) (v : Byte) : (s.hostWrite a v).fcnt = s.fcnt := rfl
@[simp] theorem hostWrite_fval (s : State) (a : CellAddr) (v : Byte) : (s.hostWrite a v).fval = s.fval := rfl
@[simp] theorem hostWrite_sh (s : State) (a : CellAddr) (v : Byte) : (s.hostWrite a v).sh = s.sh := rfl
@[simp] theorem hostWrite_b (s : State) (a : CellAddr) (v : Byte) : (s.hostWrite a v).b = s.b := rfl
@[simp] theorem hostWrite_phase (s : State) (a : CellAddr) (v : Byte) : (s.hostWrite a v).phase = s.phase := rfl
@[simp] theorem hostWrite_dcnt (s : State) (a : CellAddr) (v : Byte) : (s.hostWrite a v).dcnt = s.dcnt := rfl
@[simp] theorem hostWrite_i (s : State) (a : CellAddr) (v : Byte) : (s.hostWrite a v).i = s.i := rfl
@[simp] theorem hostWrite_k (s : State) (a : CellAddr) (v : Byte) : (s.hostWrite a v).k = s.k := rfl
@[simp] theorem hostWrite_j (s : State) (a : CellAddr) (v : Byte) : (s.hostWrite a v).j = s.j := rfl
@[simp] theorem hostWrite_inputs (s : State) (a : CellAddr) (v : Byte) : (s.hostWrite a v).inputs = s.inputs := rfl

/-! A port write changes PORT and PORT_WE (00_scope.md R10). -/

@[simp] theorem portWrite_fb (s : State) (v : Byte) : (s.portWrite v).fb = s.fb := rfl
@[simp] theorem portWrite_port (s : State) (v : Byte) : (s.portWrite v).port = v := rfl
@[simp] theorem portWrite_portWe (s : State) (v : Byte) : (s.portWrite v).portWe = true := rfl
@[simp] theorem portWrite_repeatCount (s : State) (v : Byte) : (s.portWrite v).repeatCount = s.repeatCount := rfl
@[simp] theorem portWrite_dlyRst (s : State) (v : Byte) : (s.portWrite v).dlyRst = s.dlyRst := rfl
@[simp] theorem portWrite_dlyBit (s : State) (v : Byte) : (s.portWrite v).dlyBit = s.dlyBit := rfl
@[simp] theorem portWrite_err (s : State) (v : Byte) : (s.portWrite v).err = s.err := rfl
@[simp] theorem portWrite_errCode (s : State) (v : Byte) : (s.portWrite v).errCode = s.errCode := rfl
@[simp] theorem portWrite_rspValid (s : State) (v : Byte) : (s.portWrite v).rspValid = s.rspValid := rfl
@[simp] theorem portWrite_rspErr (s : State) (v : Byte) : (s.portWrite v).rspErr = s.rspErr := rfl
@[simp] theorem portWrite_rspData (s : State) (v : Byte) : (s.portWrite v).rspData = s.rspData := rfl
@[simp] theorem portWrite_mode (s : State) (v : Byte) : (s.portWrite v).mode = s.mode := rfl
@[simp] theorem portWrite_src (s : State) (v : Byte) : (s.portWrite v).src = s.src := rfl
@[simp] theorem portWrite_fcnt (s : State) (v : Byte) : (s.portWrite v).fcnt = s.fcnt := rfl
@[simp] theorem portWrite_fval (s : State) (v : Byte) : (s.portWrite v).fval = s.fval := rfl
@[simp] theorem portWrite_sh (s : State) (v : Byte) : (s.portWrite v).sh = s.sh := rfl
@[simp] theorem portWrite_b (s : State) (v : Byte) : (s.portWrite v).b = s.b := rfl
@[simp] theorem portWrite_phase (s : State) (v : Byte) : (s.portWrite v).phase = s.phase := rfl
@[simp] theorem portWrite_dcnt (s : State) (v : Byte) : (s.portWrite v).dcnt = s.dcnt := rfl
@[simp] theorem portWrite_i (s : State) (v : Byte) : (s.portWrite v).i = s.i := rfl
@[simp] theorem portWrite_k (s : State) (v : Byte) : (s.portWrite v).k = s.k := rfl
@[simp] theorem portWrite_j (s : State) (v : Byte) : (s.portWrite v).j = s.j := rfl
@[simp] theorem portWrite_inputs (s : State) (v : Byte) : (s.portWrite v).inputs = s.inputs := rfl

/-! A response changes the three response elements (10_state.md R18). -/

@[simp] theorem respond_fb (s : State) (e : Bool) (d : Byte) : (s.respond e d).fb = s.fb := rfl
@[simp] theorem respond_port (s : State) (e : Bool) (d : Byte) : (s.respond e d).port = s.port := rfl
@[simp] theorem respond_portWe (s : State) (e : Bool) (d : Byte) : (s.respond e d).portWe = s.portWe := rfl
@[simp] theorem respond_repeatCount (s : State) (e : Bool) (d : Byte) : (s.respond e d).repeatCount = s.repeatCount := rfl
@[simp] theorem respond_dlyRst (s : State) (e : Bool) (d : Byte) : (s.respond e d).dlyRst = s.dlyRst := rfl
@[simp] theorem respond_dlyBit (s : State) (e : Bool) (d : Byte) : (s.respond e d).dlyBit = s.dlyBit := rfl
@[simp] theorem respond_err (s : State) (e : Bool) (d : Byte) : (s.respond e d).err = s.err := rfl
@[simp] theorem respond_errCode (s : State) (e : Bool) (d : Byte) : (s.respond e d).errCode = s.errCode := rfl
@[simp] theorem respond_rspValid (s : State) (e : Bool) (d : Byte) : (s.respond e d).rspValid = true := rfl
@[simp] theorem respond_rspErr (s : State) (e : Bool) (d : Byte) : (s.respond e d).rspErr = e := rfl
@[simp] theorem respond_rspData (s : State) (e : Bool) (d : Byte) : (s.respond e d).rspData = d := rfl
@[simp] theorem respond_mode (s : State) (e : Bool) (d : Byte) : (s.respond e d).mode = s.mode := rfl
@[simp] theorem respond_src (s : State) (e : Bool) (d : Byte) : (s.respond e d).src = s.src := rfl
@[simp] theorem respond_fcnt (s : State) (e : Bool) (d : Byte) : (s.respond e d).fcnt = s.fcnt := rfl
@[simp] theorem respond_fval (s : State) (e : Bool) (d : Byte) : (s.respond e d).fval = s.fval := rfl
@[simp] theorem respond_sh (s : State) (e : Bool) (d : Byte) : (s.respond e d).sh = s.sh := rfl
@[simp] theorem respond_b (s : State) (e : Bool) (d : Byte) : (s.respond e d).b = s.b := rfl
@[simp] theorem respond_phase (s : State) (e : Bool) (d : Byte) : (s.respond e d).phase = s.phase := rfl
@[simp] theorem respond_dcnt (s : State) (e : Bool) (d : Byte) : (s.respond e d).dcnt = s.dcnt := rfl
@[simp] theorem respond_i (s : State) (e : Bool) (d : Byte) : (s.respond e d).i = s.i := rfl
@[simp] theorem respond_k (s : State) (e : Bool) (d : Byte) : (s.respond e d).k = s.k := rfl
@[simp] theorem respond_j (s : State) (e : Bool) (d : Byte) : (s.respond e d).j = s.j := rfl
@[simp] theorem respond_inputs (s : State) (e : Bool) (d : Byte) : (s.respond e d).inputs = s.inputs := rfl

/-! The defaults of an edge clear PORT_WE and RSP_VALID (10_state.md R38). -/

@[simp] theorem edgeDefaults_fb (s : State) : (s.edgeDefaults).fb = s.fb := rfl
@[simp] theorem edgeDefaults_port (s : State) : (s.edgeDefaults).port = s.port := rfl
@[simp] theorem edgeDefaults_portWe (s : State) : (s.edgeDefaults).portWe = false := rfl
@[simp] theorem edgeDefaults_repeatCount (s : State) : (s.edgeDefaults).repeatCount = s.repeatCount := rfl
@[simp] theorem edgeDefaults_dlyRst (s : State) : (s.edgeDefaults).dlyRst = s.dlyRst := rfl
@[simp] theorem edgeDefaults_dlyBit (s : State) : (s.edgeDefaults).dlyBit = s.dlyBit := rfl
@[simp] theorem edgeDefaults_err (s : State) : (s.edgeDefaults).err = s.err := rfl
@[simp] theorem edgeDefaults_errCode (s : State) : (s.edgeDefaults).errCode = s.errCode := rfl
@[simp] theorem edgeDefaults_rspValid (s : State) : (s.edgeDefaults).rspValid = false := rfl
@[simp] theorem edgeDefaults_rspErr (s : State) : (s.edgeDefaults).rspErr = s.rspErr := rfl
@[simp] theorem edgeDefaults_rspData (s : State) : (s.edgeDefaults).rspData = s.rspData := rfl
@[simp] theorem edgeDefaults_mode (s : State) : (s.edgeDefaults).mode = s.mode := rfl
@[simp] theorem edgeDefaults_src (s : State) : (s.edgeDefaults).src = s.src := rfl
@[simp] theorem edgeDefaults_fcnt (s : State) : (s.edgeDefaults).fcnt = s.fcnt := rfl
@[simp] theorem edgeDefaults_fval (s : State) : (s.edgeDefaults).fval = s.fval := rfl
@[simp] theorem edgeDefaults_sh (s : State) : (s.edgeDefaults).sh = s.sh := rfl
@[simp] theorem edgeDefaults_b (s : State) : (s.edgeDefaults).b = s.b := rfl
@[simp] theorem edgeDefaults_phase (s : State) : (s.edgeDefaults).phase = s.phase := rfl
@[simp] theorem edgeDefaults_dcnt (s : State) : (s.edgeDefaults).dcnt = s.dcnt := rfl
@[simp] theorem edgeDefaults_i (s : State) : (s.edgeDefaults).i = s.i := rfl
@[simp] theorem edgeDefaults_k (s : State) : (s.edgeDefaults).k = s.k := rfl
@[simp] theorem edgeDefaults_j (s : State) : (s.edgeDefaults).j = s.j := rfl
@[simp] theorem edgeDefaults_inputs (s : State) : (s.edgeDefaults).inputs = s.inputs := rfl

/-! Clearing the error record changes ERR and ERRCODE (43_config.md R106). -/

@[simp] theorem clearError_fb (s : State) : (s.clearError).fb = s.fb := rfl
@[simp] theorem clearError_port (s : State) : (s.clearError).port = s.port := rfl
@[simp] theorem clearError_portWe (s : State) : (s.clearError).portWe = s.portWe := rfl
@[simp] theorem clearError_repeatCount (s : State) : (s.clearError).repeatCount = s.repeatCount := rfl
@[simp] theorem clearError_dlyRst (s : State) : (s.clearError).dlyRst = s.dlyRst := rfl
@[simp] theorem clearError_dlyBit (s : State) : (s.clearError).dlyBit = s.dlyBit := rfl
@[simp] theorem clearError_err (s : State) : (s.clearError).err = false := rfl
@[simp] theorem clearError_errCode (s : State) : (s.clearError).errCode = 0b00 := rfl
@[simp] theorem clearError_rspValid (s : State) : (s.clearError).rspValid = s.rspValid := rfl
@[simp] theorem clearError_rspErr (s : State) : (s.clearError).rspErr = s.rspErr := rfl
@[simp] theorem clearError_rspData (s : State) : (s.clearError).rspData = s.rspData := rfl
@[simp] theorem clearError_mode (s : State) : (s.clearError).mode = s.mode := rfl
@[simp] theorem clearError_src (s : State) : (s.clearError).src = s.src := rfl
@[simp] theorem clearError_fcnt (s : State) : (s.clearError).fcnt = s.fcnt := rfl
@[simp] theorem clearError_fval (s : State) : (s.clearError).fval = s.fval := rfl
@[simp] theorem clearError_sh (s : State) : (s.clearError).sh = s.sh := rfl
@[simp] theorem clearError_b (s : State) : (s.clearError).b = s.b := rfl
@[simp] theorem clearError_phase (s : State) : (s.clearError).phase = s.phase := rfl
@[simp] theorem clearError_dcnt (s : State) : (s.clearError).dcnt = s.dcnt := rfl
@[simp] theorem clearError_i (s : State) : (s.clearError).i = s.i := rfl
@[simp] theorem clearError_k (s : State) : (s.clearError).k = s.k := rfl
@[simp] theorem clearError_j (s : State) : (s.clearError).j = s.j := rfl
@[simp] theorem clearError_inputs (s : State) : (s.clearError).inputs = s.inputs := rfl

/-! Loading the serializer changes its four elements (41_serializer.md R85). -/

@[simp] theorem serLoad_fb (s : State) (v : Byte) : (s.serLoad v).fb = s.fb := rfl
@[simp] theorem serLoad_port (s : State) (v : Byte) : (s.serLoad v).port = s.port := rfl
@[simp] theorem serLoad_portWe (s : State) (v : Byte) : (s.serLoad v).portWe = s.portWe := rfl
@[simp] theorem serLoad_repeatCount (s : State) (v : Byte) : (s.serLoad v).repeatCount = s.repeatCount := rfl
@[simp] theorem serLoad_dlyRst (s : State) (v : Byte) : (s.serLoad v).dlyRst = s.dlyRst := rfl
@[simp] theorem serLoad_dlyBit (s : State) (v : Byte) : (s.serLoad v).dlyBit = s.dlyBit := rfl
@[simp] theorem serLoad_err (s : State) (v : Byte) : (s.serLoad v).err = s.err := rfl
@[simp] theorem serLoad_errCode (s : State) (v : Byte) : (s.serLoad v).errCode = s.errCode := rfl
@[simp] theorem serLoad_rspValid (s : State) (v : Byte) : (s.serLoad v).rspValid = s.rspValid := rfl
@[simp] theorem serLoad_rspErr (s : State) (v : Byte) : (s.serLoad v).rspErr = s.rspErr := rfl
@[simp] theorem serLoad_rspData (s : State) (v : Byte) : (s.serLoad v).rspData = s.rspData := rfl
@[simp] theorem serLoad_mode (s : State) (v : Byte) : (s.serLoad v).mode = s.mode := rfl
@[simp] theorem serLoad_src (s : State) (v : Byte) : (s.serLoad v).src = s.src := rfl
@[simp] theorem serLoad_fcnt (s : State) (v : Byte) : (s.serLoad v).fcnt = s.fcnt := rfl
@[simp] theorem serLoad_fval (s : State) (v : Byte) : (s.serLoad v).fval = s.fval := rfl
@[simp] theorem serLoad_sh (s : State) (v : Byte) : (s.serLoad v).sh = v := rfl
@[simp] theorem serLoad_b (s : State) (v : Byte) : (s.serLoad v).b = 0 := rfl
@[simp] theorem serLoad_phase (s : State) (v : Byte) : (s.serLoad v).phase = .w0 := rfl
@[simp] theorem serLoad_dcnt (s : State) (v : Byte) : (s.serLoad v).dcnt = 0x00 := rfl
@[simp] theorem serLoad_i (s : State) (v : Byte) : (s.serLoad v).i = s.i := rfl
@[simp] theorem serLoad_k (s : State) (v : Byte) : (s.serLoad v).k = s.k := rfl
@[simp] theorem serLoad_j (s : State) (v : Byte) : (s.serLoad v).j = s.j := rfl
@[simp] theorem serLoad_inputs (s : State) (v : Byte) : (s.serLoad v).inputs = s.inputs := rfl

/-! An edge uses up one input. -/

@[simp] theorem popInput_fb (s : State) : (s.popInput).fb = s.fb := rfl
@[simp] theorem popInput_port (s : State) : (s.popInput).port = s.port := rfl
@[simp] theorem popInput_portWe (s : State) : (s.popInput).portWe = s.portWe := rfl
@[simp] theorem popInput_repeatCount (s : State) : (s.popInput).repeatCount = s.repeatCount := rfl
@[simp] theorem popInput_dlyRst (s : State) : (s.popInput).dlyRst = s.dlyRst := rfl
@[simp] theorem popInput_dlyBit (s : State) : (s.popInput).dlyBit = s.dlyBit := rfl
@[simp] theorem popInput_err (s : State) : (s.popInput).err = s.err := rfl
@[simp] theorem popInput_errCode (s : State) : (s.popInput).errCode = s.errCode := rfl
@[simp] theorem popInput_rspValid (s : State) : (s.popInput).rspValid = s.rspValid := rfl
@[simp] theorem popInput_rspErr (s : State) : (s.popInput).rspErr = s.rspErr := rfl
@[simp] theorem popInput_rspData (s : State) : (s.popInput).rspData = s.rspData := rfl
@[simp] theorem popInput_mode (s : State) : (s.popInput).mode = s.mode := rfl
@[simp] theorem popInput_src (s : State) : (s.popInput).src = s.src := rfl
@[simp] theorem popInput_fcnt (s : State) : (s.popInput).fcnt = s.fcnt := rfl
@[simp] theorem popInput_fval (s : State) : (s.popInput).fval = s.fval := rfl
@[simp] theorem popInput_sh (s : State) : (s.popInput).sh = s.sh := rfl
@[simp] theorem popInput_b (s : State) : (s.popInput).b = s.b := rfl
@[simp] theorem popInput_phase (s : State) : (s.popInput).phase = s.phase := rfl
@[simp] theorem popInput_dcnt (s : State) : (s.popInput).dcnt = s.dcnt := rfl
@[simp] theorem popInput_i (s : State) : (s.popInput).i = s.i := rfl
@[simp] theorem popInput_k (s : State) : (s.popInput).k = s.k := rfl
@[simp] theorem popInput_j (s : State) : (s.popInput).j = s.j := rfl
@[simp] theorem popInput_inputs (s : State) : (s.popInput).inputs = s.inputs.tail := rfl

/-! Raising an error changes at most ERR and ERRCODE, and those only where ERR = 0 (60_exceptions.md R114). -/

@[simp] theorem raiseError_fb (s : State) (c : ErrorCause) : (s.raiseError c).fb = s.fb := by unfold raiseError; split <;> rfl
@[simp] theorem raiseError_port (s : State) (c : ErrorCause) : (s.raiseError c).port = s.port := by unfold raiseError; split <;> rfl
@[simp] theorem raiseError_portWe (s : State) (c : ErrorCause) : (s.raiseError c).portWe = s.portWe := by unfold raiseError; split <;> rfl
@[simp] theorem raiseError_repeatCount (s : State) (c : ErrorCause) : (s.raiseError c).repeatCount = s.repeatCount := by unfold raiseError; split <;> rfl
@[simp] theorem raiseError_dlyRst (s : State) (c : ErrorCause) : (s.raiseError c).dlyRst = s.dlyRst := by unfold raiseError; split <;> rfl
@[simp] theorem raiseError_dlyBit (s : State) (c : ErrorCause) : (s.raiseError c).dlyBit = s.dlyBit := by unfold raiseError; split <;> rfl
@[simp] theorem raiseError_rspValid (s : State) (c : ErrorCause) : (s.raiseError c).rspValid = s.rspValid := by unfold raiseError; split <;> rfl
@[simp] theorem raiseError_rspErr (s : State) (c : ErrorCause) : (s.raiseError c).rspErr = s.rspErr := by unfold raiseError; split <;> rfl
@[simp] theorem raiseError_rspData (s : State) (c : ErrorCause) : (s.raiseError c).rspData = s.rspData := by unfold raiseError; split <;> rfl
@[simp] theorem raiseError_mode (s : State) (c : ErrorCause) : (s.raiseError c).mode = s.mode := by unfold raiseError; split <;> rfl
@[simp] theorem raiseError_src (s : State) (c : ErrorCause) : (s.raiseError c).src = s.src := by unfold raiseError; split <;> rfl
@[simp] theorem raiseError_fcnt (s : State) (c : ErrorCause) : (s.raiseError c).fcnt = s.fcnt := by unfold raiseError; split <;> rfl
@[simp] theorem raiseError_fval (s : State) (c : ErrorCause) : (s.raiseError c).fval = s.fval := by unfold raiseError; split <;> rfl
@[simp] theorem raiseError_sh (s : State) (c : ErrorCause) : (s.raiseError c).sh = s.sh := by unfold raiseError; split <;> rfl
@[simp] theorem raiseError_b (s : State) (c : ErrorCause) : (s.raiseError c).b = s.b := by unfold raiseError; split <;> rfl
@[simp] theorem raiseError_phase (s : State) (c : ErrorCause) : (s.raiseError c).phase = s.phase := by unfold raiseError; split <;> rfl
@[simp] theorem raiseError_dcnt (s : State) (c : ErrorCause) : (s.raiseError c).dcnt = s.dcnt := by unfold raiseError; split <;> rfl
@[simp] theorem raiseError_i (s : State) (c : ErrorCause) : (s.raiseError c).i = s.i := by unfold raiseError; split <;> rfl
@[simp] theorem raiseError_k (s : State) (c : ErrorCause) : (s.raiseError c).k = s.k := by unfold raiseError; split <;> rfl
@[simp] theorem raiseError_j (s : State) (c : ErrorCause) : (s.raiseError c).j = s.j := by unfold raiseError; split <;> rfl
@[simp] theorem raiseError_inputs (s : State) (c : ErrorCause) : (s.raiseError c).inputs = s.inputs := by unfold raiseError; split <;> rfl
@[simp] theorem raiseError_err (s : State) (c : ErrorCause) : (s.raiseError c).err = true := by
  unfold raiseError; split <;> simp_all
@[simp] theorem raiseError_errCode (s : State) (c : ErrorCause) :
    (s.raiseError c).errCode = if s.err then s.errCode else c.code := by unfold raiseError; split <;> rfl

/-! Reset leaves the coming inputs (70_reset_and_hazards.md R127). -/

@[simp] theorem applyReset_inputs (s : State) : s.applyReset.inputs = s.inputs := rfl

end Sys2Proof.Machine.State
end

