-- ==== Sys2Proof/Laws/Edge.lean ====
section
/-! SUPPORT. What one edge can do, said once: the cases of a step, of a FILL step, of the serializer's step, and of `exec`. -/

namespace Sys2Proof.Machine

/-! ### The edge -/

theorem edge_rst {inp : EdgeInput} (h : inp.rst = true) (s : State) : edge inp s = .next s.applyReset := by simp [edge, h]

theorem edge_idle_accept {inp : EdgeInput} {s : State} (h : inp.rst = false) (hm : s.mode = .idle) (hv : inp.cmdValid = true) :
    edge inp s = exec (decode inp.cmdWord) s.edgeDefaults := by simp [edge, h, hm, acceptEdge, hv]

theorem edge_idle_quiet {inp : EdgeInput} {s : State} (h : inp.rst = false) (hm : s.mode = .idle) (hv : inp.cmdValid = false) :
    edge inp s = .next s.edgeDefaults := by simp [edge, h, hm, acceptEdge, hv]

theorem edge_fill {inp : EdgeInput} {s : State} (h : inp.rst = false) (hm : s.mode = .fill) :
    edge inp s = .next s.edgeDefaults.fillStep := by simp [edge, h, hm]

theorem edge_ser {inp : EdgeInput} {s : State} (h : inp.rst = false) (hm : s.mode = .ser) :
    edge inp s = .next s.edgeDefaults.serStep := by simp [edge, h, hm]

theorem accepted_eq_some {inp : EdgeInput} {s : State} {i : Instr} :
    accepted inp s = some i ↔ inp.rst = false ∧ s.mode = .idle ∧ inp.cmdValid = true ∧ decode inp.cmdWord = i := by
  simp only [accepted, State.cmdReady]
  by_cases hm : s.mode = .idle <;> cases inp.rst <;> cases inp.cmdValid <;> simp [hm]

/-- What an edge that answers `next t` did: reset, a command, nothing, a FILL step or a serializer step (10_state.md R36). -/
theorem edge_cases {inp : EdgeInput} {s t : State} (h : edge inp s = .next t) :
    (inp.rst = true ∧ t = s.applyReset) ∨
    (inp.rst = false ∧ s.mode = .idle ∧ inp.cmdValid = true ∧ exec (decode inp.cmdWord) s.edgeDefaults = .next t) ∨
    (inp.rst = false ∧ s.mode = .idle ∧ inp.cmdValid = false ∧ t = s.edgeDefaults) ∨
    (inp.rst = false ∧ s.mode = .fill ∧ t = s.edgeDefaults.fillStep) ∨
    (inp.rst = false ∧ s.mode = .ser ∧ t = s.edgeDefaults.serStep) := by
  unfold edge acceptEdge at h
  cases hr : inp.rst <;> cases hm : s.mode <;> cases hv : inp.cmdValid <;> simp_all

@[simp] theorem nextInput_cons {s : State} {inp : EdgeInput} {rest : List EdgeInput} (h : s.inputs = inp :: rest) :
    s.nextInput = inp := by simp [State.nextInput, h]

theorem popInput_cons {s : State} {inp : EdgeInput} {rest : List EdgeInput} (h : s.inputs = inp :: rest) :
    s.popInput = { s with inputs := rest } := by simp [State.popInput, h]

/-! ### `exec` always answers a next state -/

/-- Every command answers a next state (30_encoding.md R69, 60_exceptions.md R114). -/
theorem exec_next (i : Instr) (s : State) : ∃ t, exec i s = .next t := by
  cases i with
  | nop => exact ⟨_, rfl⟩
  | wr r c v => simp only [exec, execWr]; split <;> exact ⟨_, rfl⟩
  | rd r c => simp only [exec, execRd]; split <;> exact ⟨_, rfl⟩
  | fill v => exact ⟨_, rfl⟩
  | emit v => exact ⟨_, rfl⟩
  | refresh => simp only [exec, execRefresh]; split <;> exact ⟨_, rfl⟩
  | cfgw sel v => simp only [exec, execCfgw]; split <;> exact ⟨_, rfl⟩
  | cfgr sel => simp only [exec, execCfgr]; split <;> exact ⟨_, rfl⟩
  | illegal => exact ⟨_, rfl⟩

theorem edge_next (inp : EdgeInput) (s : State) : ∃ t, edge inp s = .next t := by
  unfold edge acceptEdge
  split
  · exact ⟨_, rfl⟩
  · split
    · split
      · exact exec_next _ _
      · exact ⟨_, rfl⟩
    · exact ⟨_, rfl⟩
    · exact ⟨_, rfl⟩

theorem step_next (s : State) : ∃ t, step s = .next t := edge_next _ _

/-! ### Fields that whole steps leave alone -/

/-- Advancing the scan changes only MODE, the scan position and the serializer's load (42_scanner.md R98). -/
theorem scanAdvance_frame (s : State) :
    s.scanAdvance.fb = s.fb ∧ s.scanAdvance.port = s.port ∧ s.scanAdvance.portWe = s.portWe ∧
    s.scanAdvance.repeatCount = s.repeatCount ∧ s.scanAdvance.dlyRst = s.dlyRst ∧ s.scanAdvance.dlyBit = s.dlyBit ∧
    s.scanAdvance.err = s.err ∧ s.scanAdvance.errCode = s.errCode ∧ s.scanAdvance.rspValid = s.rspValid ∧
    s.scanAdvance.rspErr = s.rspErr ∧ s.scanAdvance.rspData = s.rspData ∧ s.scanAdvance.src = s.src ∧
    s.scanAdvance.fcnt = s.fcnt ∧ s.scanAdvance.fval = s.fval ∧ s.scanAdvance.inputs = s.inputs := by
  unfold State.scanAdvance
  split <;> simp

/-- Ending a bit changes only MODE, the scan position and the serializer's load and bit index (41_serializer.md R89). -/
theorem bitDone_frame (s : State) :
    s.bitDone.fb = s.fb ∧ s.bitDone.port = s.port ∧ s.bitDone.portWe = s.portWe ∧
    s.bitDone.repeatCount = s.repeatCount ∧ s.bitDone.dlyRst = s.dlyRst ∧ s.bitDone.dlyBit = s.dlyBit ∧
    s.bitDone.err = s.err ∧ s.bitDone.errCode = s.errCode ∧ s.bitDone.rspValid = s.rspValid ∧
    s.bitDone.rspErr = s.rspErr ∧ s.bitDone.rspData = s.rspData ∧ s.bitDone.src = s.src ∧
    s.bitDone.fcnt = s.fcnt ∧ s.bitDone.fval = s.fval ∧ s.bitDone.inputs = s.inputs := by
  unfold State.bitDone State.cellDone
  split
  · simp
  · split
    · simp
    · exact scanAdvance_frame s

/-- A serializer step changes only MODE, the port and the serializer's and scanner's own state (41_serializer.md R88). -/
theorem serStep_frame (s : State) :
    s.serStep.fb = s.fb ∧ s.serStep.repeatCount = s.repeatCount ∧ s.serStep.dlyRst = s.dlyRst ∧ s.serStep.dlyBit = s.dlyBit ∧
    s.serStep.err = s.err ∧ s.serStep.errCode = s.errCode ∧ s.serStep.rspValid = s.rspValid ∧
    s.serStep.rspErr = s.rspErr ∧ s.serStep.rspData = s.rspData ∧ s.serStep.src = s.src ∧
    s.serStep.fcnt = s.fcnt ∧ s.serStep.fval = s.fval ∧ s.serStep.inputs = s.inputs := by
  unfold State.serStep
  split
  · simp only [State.serW0]; split <;> simp
  · simp only [State.serH0]; split <;> simp
  · simp only [State.serW1]
    split
    · rw [(bitDone_frame _).1]
      obtain ⟨-, -, -, h1, h2, h3, h4, h5, h6, h7, h8, h9, h10, h11, h12⟩ := bitDone_frame
        { s.portWrite (pattern (s.sh.getLsbD 0)) with sh := s.sh >>> 1 }
      exact ⟨rfl, h1, h2, h3, h4, h5, h6, h7, h8, h9, h10, h11, h12⟩
    · simp
  · simp only [State.serH1]
    split
    · obtain ⟨h0, -, -, h1, h2, h3, h4, h5, h6, h7, h8, h9, h10, h11, h12⟩ := bitDone_frame s
      exact ⟨h0, h1, h2, h3, h4, h5, h6, h7, h8, h9, h10, h11, h12⟩
    · simp

/-- A FILL step changes only FB, FCNT and MODE (40_framebuffer.md R78). -/
theorem fillStep_eq (s : State) :
    s.fillStep = { s with fb := s.fb.write s.fcnt s.fval,
                          mode := if s.fcnt.toNat = 63 then .idle else s.mode,
                          fcnt := if s.fcnt.toNat = 63 then s.fcnt else s.fcnt + 1 } := by
  unfold State.fillStep
  split <;> simp [State.hostWrite]

end Sys2Proof.Machine
end

