-- ==== Sys2Proof/Laws/Encoding.lean ====
section
/-! SUPPORT. The fields of a word built by the format CMD32 are the ones it was built from (30_encoding.md R60). -/

namespace Sys2Proof

/-- Every bit of a word built by CMD32 (30_encoding.md R60). -/
theorem getLsbD_cmdWord (op ra cb : Nibble) (d : Data) (i : Nat) :
    (cmdWord op ra cb d).getLsbD i =
      if i < 16 then d.getLsbD i else if i < 20 then false else if i < 24 then cb.getLsbD (i - 20)
      else if i < 28 then ra.getLsbD (i - 24) else op.getLsbD (i - 28) := by
  have e20 : i - 16 - 4 = i - 20 := by omega
  have e24 : i - 20 - 4 = i - 24 := by omega
  have e28 : i - 24 - 4 = i - 28 := by omega
  simp only [cmdWord, BitVec.getLsbD_append, e20, e24, e28]
  by_cases h16 : i < 16
  · rw [if_pos h16, if_pos h16]
  · rw [if_neg h16, if_neg h16]
    by_cases h20 : i < 20
    · rw [if_pos (by omega), if_pos h20]; exact BitVec.getLsbD_zero
    · rw [if_neg (by omega), if_neg h20]
      by_cases h24 : i < 24
      · rw [if_pos (by omega), if_pos h24]
      · rw [if_neg (by omega), if_neg h24]
        by_cases h28 : i < 28
        · rw [if_pos (by omega), if_pos h28]
        · rw [if_neg (by omega), if_neg h28]

/-! Every bit of a field of a word (30_encoding.md R61 to R65). -/

theorem getLsbD_opField (w : Word) (k : Nat) : (opField w).getLsbD k = (decide (k < 4) && w.getLsbD (28 + k)) :=
  BitVec.getLsbD_extractLsb' _ _ _ _

theorem getLsbD_raField (w : Word) (k : Nat) : (raField w).getLsbD k = (decide (k < 4) && w.getLsbD (24 + k)) :=
  BitVec.getLsbD_extractLsb' _ _ _ _

theorem getLsbD_cbField (w : Word) (k : Nat) : (cbField w).getLsbD k = (decide (k < 4) && w.getLsbD (20 + k)) :=
  BitVec.getLsbD_extractLsb' _ _ _ _

theorem getLsbD_valueField (w : Word) (k : Nat) : (valueField w).getLsbD k = (decide (k < 8) && w.getLsbD k) := by
  simp only [valueField, truncByte, dataField, BitVec.getLsbD_setWidth, BitVec.getLsbD_extractLsb', Nat.zero_add]
  by_cases h : k < 8
  · simp [h, show k < 16 by omega]
  · simp [h]

@[simp] theorem opField_cmdWord (op ra cb : Nibble) (d : Data) : opField (cmdWord op ra cb d) = op := by
  refine BitVec.eq_of_getLsbD_eq fun i hi => ?_
  simp only [opField, cmdWord, BitVec.getLsbD_extractLsb', BitVec.getLsbD_append, hi, decide_true, Bool.true_and]
  rw [if_neg (by omega), if_neg (by omega), if_neg (by omega), if_neg (by omega)]
  congr 1; omega

@[simp] theorem raField_cmdWord (op ra cb : Nibble) (d : Data) : raField (cmdWord op ra cb d) = ra := by
  refine BitVec.eq_of_getLsbD_eq fun i hi => ?_
  simp only [raField, cmdWord, BitVec.getLsbD_extractLsb', BitVec.getLsbD_append, hi, decide_true, Bool.true_and]
  rw [if_neg (by omega), if_neg (by omega), if_neg (by omega), if_pos (by omega)]
  congr 1; omega

@[simp] theorem cbField_cmdWord (op ra cb : Nibble) (d : Data) : cbField (cmdWord op ra cb d) = cb := by
  refine BitVec.eq_of_getLsbD_eq fun i hi => ?_
  simp only [cbField, cmdWord, BitVec.getLsbD_extractLsb', BitVec.getLsbD_append, hi, decide_true, Bool.true_and]
  rw [if_neg (by omega), if_neg (by omega), if_pos (by omega)]
  congr 1; omega

@[simp] theorem dataField_cmdWord (op ra cb : Nibble) (d : Data) : dataField (cmdWord op ra cb d) = d := by
  refine BitVec.eq_of_getLsbD_eq fun i hi => ?_
  simp only [dataField, cmdWord, BitVec.getLsbD_extractLsb', BitVec.getLsbD_append, hi, decide_true, Bool.true_and]
  rw [if_pos (by omega)]
  congr 1; omega

@[simp] theorem truncByte_zextData (v : Byte) : truncByte (zextData v) = v := by
  apply BitVec.eq_of_toNat_eq
  have := v.isLt
  simp only [truncByte, zextData, BitVec.toNat_setWidth]
  omega

@[simp] theorem valueField_cmdWord (op ra cb : Nibble) (d : Data) : valueField (cmdWord op ra cb d) = truncByte d := by
  simp only [valueField, dataField_cmdWord]

end Sys2Proof
end

