-- ==== Sys2Proof/Laws/Ops.lean ====
section
/-! SUPPORT. What each shared operation does, said once: the range check, the register select, errors, the STATUS write, the scan's advance,
and the edge that accepts an offered word. -/

namespace Sys2Proof.Machine

theorem inRange_iff {r c : Nibble} : inRange r c = true ↔ r.toNat < 8 ∧ c.toNat < 8 := by simp [inRange]

/-- In range, the three index bits of a field are the whole index (20_memory.md R44). -/
theorem lowIndex_toNat {x : Nibble} (h : x.toNat < 8) : (lowIndex x).toNat = x.toNat := by
  simp only [lowIndex, BitVec.extractLsb'_toNat, Nat.shiftRight_zero]
  exact Nat.mod_eq_of_lt h

/-- A cell address is the row times eight plus the column (20_memory.md R44). -/
theorem cellAddr_toNat (r c : Index) : (cellAddr r c).toNat = 8 * r.toNat + c.toNat := by
  revert r c; decide

/-- The select map of 43_config.md R109, one case per register and one for the unimplemented selects. -/
theorem configReg_cases (sel : Nibble) :
    (sel = 0 ∧ configReg sel = some .repeatReg) ∨ (sel = 1 ∧ configReg sel = some .dlyRst) ∨
    (sel = 2 ∧ configReg sel = some .dlyBit) ∨ (sel = 3 ∧ configReg sel = some .status) ∨
    (sel = 4 ∧ configReg sel = some .patOne) ∨ (sel = 5 ∧ configReg sel = some .patZero) ∨
    (6 ≤ sel.toNat ∧ configReg sel = none) := by
  revert sel; decide

/-- The error entry as one update (60_exceptions.md R114). -/
theorem raiseError_eq (s : State) (c : ErrorCause) :
    s.raiseError c = { s with err := true, errCode := if s.err then s.errCode else c.code } := by
  unfold State.raiseError
  split
  · cases s; simp_all
  · rfl

/-- The rejection of an RD or a CFGR as one update (60_exceptions.md R114). -/
theorem rejectRead_eq (s : State) (c : ErrorCause) :
    s.rejectRead c = { s with err := true, errCode := if s.err then s.errCode else c.code,
                              rspValid := true, rspErr := true, rspData := 0x00 } := by
  unfold State.rejectRead; rw [raiseError_eq]; rfl

theorem statusWrite_set {v : Byte} (h : v.getLsbD 1 = true) (s : State) : s.statusWrite v = s.clearError := if_pos h

theorem statusWrite_clear {v : Byte} (h : v.getLsbD 1 = false) (s : State) : s.statusWrite v = s := by
  unfold State.statusWrite; rw [h]; rfl

/-- The scan goes on at the next position with that cell loaded (42_scanner.md R98). -/
theorem scanAdvance_some {s : State} {p : ScanPos} (h : s.scanNext = some p) :
    s.scanAdvance = { s with i := p.i, k := p.k, j := p.j, sh := s.fb.read (scanAddr p.i p.j), b := 0, phase := .w0, dcnt := 0x00 } := by
  unfold State.scanAdvance; rw [h]; rfl

/-- The scan ends (42_scanner.md R98). -/
theorem scanAdvance_none {s : State} (h : s.scanNext = none) : s.scanAdvance = { s with mode := .idle } := by
  unfold State.scanAdvance; rw [h]

theorem nextIndex_toNat {x : Index} (h : x.toNat < 7) : (x + 1).toNat = x.toNat + 1 := by
  revert x; decide

@[simp] theorem tableWord_toNat (w : Word) : tableWord 32 w.toNat = w := by
  unfold tableWord
  rw [Nat.mod_eq_of_lt w.isLt, BitVec.ofNat_toNat, BitVec.setWidth_eq]

/-- The edge that accepts an offered word (10_state.md R16, R36, R38). -/
theorem step_accept {s : State} {w : Word} {rest : List EdgeInput} (hm : s.mode = .idle) (hi : s.inputs = .offer w :: rest) :
    step s = exec (decode w) { s with portWe := false, rspValid := false, inputs := rest } := by
  unfold step
  rw [nextInput_cons hi, popInput_cons hi]
  exact edge_idle_accept (s := { s with inputs := rest }) rfl hm rfl

end Sys2Proof.Machine
end

