-- ==== Sys2Proof/Laws/PerInstr.lean ====
section
/-! SUPPORT. Per-command laws of the syntax.
Family `InRow`: the word of a well-formed command lies in its own row of the opcode table, `(word & mask) == match`. -/

namespace Sys2Proof.Laws.InRow

/-- The encoded word is selected by the command's own row (spec/opcode_table.json, 30_encoding.md R66). -/
def Statement (i : Instr) : Prop := i.wellFormed = true → encode i &&& rowMask i = rowMatch i

/-- The mask of the eight commands' rows picks out OP. -/
theorem cmdWord_and_opMask (op ra cb : Nibble) (d : Data) :
    cmdWord op ra cb d &&& 0xF0000000 = cmdWord op 0 0 0 := by
  refine BitVec.eq_of_getLsbD_eq fun i hi => ?_
  simp only [cmdWord, BitVec.getLsbD_and, BitVec.getLsbD_append]
  interval_cases i <;> simp

theorem nop : Statement .nop := fun _ => by decide
theorem wr (row col : Nibble) (v : Byte) : Statement (.wr row col v) := fun _ =>
  (cmdWord_and_opMask 1 row col (zextData v)).trans rfl
theorem rd (row col : Nibble) : Statement (.rd row col) := fun _ => (cmdWord_and_opMask 2 row col 0).trans rfl
theorem fill (v : Byte) : Statement (.fill v) := fun _ => (cmdWord_and_opMask 3 0 0 (zextData v)).trans rfl
theorem emit (v : Byte) : Statement (.emit v) := fun _ => (cmdWord_and_opMask 4 0 0 (zextData v)).trans rfl
theorem refresh : Statement .refresh := fun _ => by decide
theorem cfgw (sel : Nibble) (v : Byte) : Statement (.cfgw sel v) := fun _ =>
  (cmdWord_and_opMask 6 sel 0 (zextData v)).trans rfl
theorem cfgr (sel : Nibble) : Statement (.cfgr sel) := fun _ => (cmdWord_and_opMask 7 sel 0 0).trans rfl
theorem illegal : Statement .illegal := fun _ => by decide

end Sys2Proof.Laws.InRow
end

