-- ==== Sys2Proof/Laws/Runs.lean ====
section
/-! SUPPORT. Runs of edges with the serializer busy: how two stretches join, and what one pulse does. -/

namespace Sys2Proof.Machine

theorem run_succ {s t : State} (n : Nat) (h : step s = .next t) : Sys2Proof.core.run (n + 1) s = Sys2Proof.core.run n t := by
  have hc : Sys2Proof.core.step s = .next t := h
  simp only [Host.Core.run, hc]

theorem run_add {s t : State} (m n : Nat) (h : Sys2Proof.core.run m s = .next t) :
    Sys2Proof.core.run (m + n) s = Sys2Proof.core.run n t := by
  induction m generalizing s with
  | zero => cases h; rw [Nat.zero_add]
  | succ m ih =>
    obtain ⟨u, hu⟩ := step_next s
    rw [run_succ m hu] at h
    rw [Nat.succ_add, run_succ _ hu, ih h]

theorem portWrites_succ {s t : State} (e n : Nat) (h : step s = .next t) :
    portWrites e (n + 1) s = (if t.portWe then [(e, t.port)] else []) ++ portWrites (e + 1) n t := by
  simp only [portWrites, h]; split <;> rfl

theorem responses_succ {s t : State} (e n : Nat) (h : step s = .next t) :
    responses e (n + 1) s = (if t.rspValid then [(e, t.rspErr, t.rspData)] else []) ++ responses (e + 1) n t := by
  simp only [responses, h]; split <;> rfl

theorem portWrites_add {s t : State} (e m n : Nat) (h : Sys2Proof.core.run m s = .next t) :
    portWrites e (m + n) s = portWrites e m s ++ portWrites (e + m) n t := by
  induction m generalizing e s with
  | zero => cases h; simp [portWrites]
  | succ m ih =>
    obtain ⟨u, hu⟩ := step_next s
    rw [run_succ m hu] at h
    rw [Nat.succ_add, portWrites_succ _ _ hu, portWrites_succ _ _ hu, ih (e + 1) h, List.append_assoc, Nat.add_right_comm e 1 m]
    rfl

theorem responses_add {s t : State} (e m n : Nat) (h : Sys2Proof.core.run m s = .next t) :
    responses e (m + n) s = responses e m s ++ responses (e + m) n t := by
  induction m generalizing e s with
  | zero => cases h; simp [responses]
  | succ m ih =>
    obtain ⟨u, hu⟩ := step_next s
    rw [run_succ m hu] at h
    rw [Nat.succ_add, responses_succ _ _ hu, responses_succ _ _ hu, ih (e + 1) h, List.append_assoc, Nat.add_right_comm e 1 m]
    rfl

/-- The first `n` edges from `s`, the first numbered `e`, lead to `t`, MODE being `md` before each of them, with the port writes `ws` and no
response. -/
structure Stretch (md : Mode) (e n : Nat) (s t : State) (ws : List (Nat × Byte)) : Prop where
  reaches : Sys2Proof.core.run n s = .next t
  writes : portWrites e n s = ws
  silent : responses e n s = []
  busy : ∀ m, m < n → ∃ u, Sys2Proof.core.run m s = .next u ∧ u.mode = md

namespace Stretch

theorem nil (md : Mode) (e : Nat) (s : State) : Stretch md e 0 s s [] :=
  ⟨rfl, rfl, rfl, fun m h => absurd h (Nat.not_lt_zero m)⟩

theorem one {md : Mode} (e : Nat) {s t : State} (h : step s = .next t) (hm : s.mode = md) (hr : t.rspValid = false) :
    Stretch md e 1 s t (if t.portWe then [(e, t.port)] else []) where
  reaches := run_succ 0 h
  writes := by rw [portWrites_succ e 0 h]; simp [portWrites]
  silent := by rw [responses_succ e 0 h, hr]; rfl
  busy := fun m hlt => ⟨s, by obtain rfl : m = 0 := by omega
                              rfl, hm⟩

theorem append {md : Mode} {e n m : Nat} {s t u : State} {ws ws' : List (Nat × Byte)} (r : Stretch md e n s t ws)
    (r' : Stretch md (e + n) m t u ws') : Stretch md e (n + m) s u (ws ++ ws') where
  reaches := by rw [run_add n m r.reaches, r'.reaches]
  writes := by rw [portWrites_add e n m r.reaches, r.writes, r'.writes]
  silent := by rw [responses_add e n m r.reaches, r.silent, r'.silent]; rfl
  busy := fun k hk => by
    by_cases hkn : k < n
    · exact r.busy k hkn
    · obtain ⟨j, rfl⟩ := Nat.exists_eq_add_of_le (Nat.le_of_not_lt hkn)
      rw [run_add n j r.reaches]
      exact r'.busy j (by omega)

end Stretch

/-! ### Edges without reset -/

theorem noReset_next {n : Nat} {s : State} (h : noReset (n + 1) s = true) :
    s.nextInput.rst = false ∧ s.inputs.tail.take n = (s.inputs.take (n + 1)).tail ∧
      (s.inputs.tail.take n).all (fun inp => !inp.rst) = true := by
  unfold noReset at h
  unfold State.nextInput
  cases hi : s.inputs with
  | nil => simp [EdgeInput.quiet]
  | cons inp rest => simp_all

theorem noReset_of_inputs {n : Nat} {s t : State} (h : noReset (n + 1) s = true) (ht : t.inputs = s.inputs.tail) :
    noReset n t = true := by
  unfold noReset
  rw [ht]
  exact (noReset_next h).2.2

theorem noReset_drop {m n : Nat} {s t : State} (h : noReset (m + n) s = true) (ht : t.inputs = s.inputs.drop m) :
    noReset n t = true := by
  unfold noReset at h ⊢
  rw [ht, List.all_eq_true] at *
  intro x hx
  refine h x ?_
  rw [List.take_drop] at hx
  exact List.mem_of_mem_drop hx

theorem noReset_le {m n : Nat} {s : State} (h : noReset n s = true) (hmn : m ≤ n) : noReset m s = true := by
  unfold noReset at h ⊢
  rw [List.all_eq_true] at *
  exact fun x hx => h x (List.take_subset_take_left _ hmn hx)

/-- An edge of a busy serializer, not reset (10_state.md R36). -/
theorem step_ser {n : Nat} {s : State} (h : noReset (n + 1) s = true) (hm : s.mode = .ser) :
    step s = .next s.popInput.edgeDefaults.serStep := edge_ser (noReset_next h).1 hm

/-! ### The holds and one pulse (41_serializer.md R88, R90, R93) -/

/-- H0 with DCNT = m holds the port for m + 1 edges and goes to W1. -/
theorem hold_reset_stretch (m : Nat) : ∀ (s : State) (e : Nat), s.mode = .ser → s.phase = .h0 → s.dcnt.toNat = m →
    noReset (m + 1) s = true →
    Stretch .ser e (m + 1) s { s with portWe := false, rspValid := false, phase := .w1, dcnt := 0x00,
                                      inputs := s.inputs.drop (m + 1) } [] := by
  induction m with
  | zero =>
    intro s e hm hp hd hr
    have hd0 : s.dcnt = 0#8 := BitVec.eq_of_toNat_eq hd
    have hs : step s = .next { s with portWe := false, rspValid := false, phase := .w1, dcnt := 0x00, inputs := s.inputs.tail } := by
      rw [step_ser hr hm]; simp [State.serStep, hp, State.serH0, hd0, State.edgeDefaults, State.popInput]
    simpa using Stretch.one e hs hm rfl
  | succ m ih =>
    intro s e hm hp hd hr
    have hd0 : s.dcnt ≠ 0#8 := fun h => by simp [h] at hd
    have hd1 : (s.dcnt - 1).toNat = m := by
      have := s.dcnt.isLt
      rw [BitVec.toNat_sub]; simp; omega
    let u : State := { s with portWe := false, rspValid := false, dcnt := s.dcnt - 1, inputs := s.inputs.tail }
    have hs : step s = .next u := by
      rw [step_ser hr hm]; simp [State.serStep, hp, State.serH0, hd0, State.edgeDefaults, State.popInput, u]
    have hu := ih u (e + 1) hm hp hd1 (noReset_of_inputs hr rfl)
    have := (Stretch.one e hs hm rfl).append hu
    rw [Nat.add_comm 1] at this
    simpa [u] using this

/-- H1 with DCNT = m holds the port for m + 1 edges and ends the bit. -/
theorem hold_bit_stretch (m : Nat) : ∀ (s : State) (e : Nat), s.mode = .ser → s.phase = .h1 → s.dcnt.toNat = m →
    noReset (m + 1) s = true →
    Stretch .ser e (m + 1) s
      (State.bitDone { s with portWe := false, rspValid := false, dcnt := 0x00, inputs := s.inputs.drop (m + 1) }) [] := by
  induction m with
  | zero =>
    intro s e hm hp hd hr
    have hd0 : s.dcnt = 0#8 := BitVec.eq_of_toNat_eq hd
    have hs : step s =
        .next (State.bitDone { s with portWe := false, rspValid := false, dcnt := 0x00, inputs := s.inputs.tail }) := by
      rw [step_ser hr hm]; simp [State.serStep, hp, State.serH1, hd0, State.edgeDefaults, State.popInput]
    have := Stretch.one e hs hm (by rw [(bitDone_frame _).2.2.2.2.2.2.2.2.1])
    rw [(bitDone_frame _).2.2.1] at this
    simpa using this
  | succ m ih =>
    intro s e hm hp hd hr
    have hd0 : s.dcnt ≠ 0#8 := fun h => by simp [h] at hd
    have hd1 : (s.dcnt - 1).toNat = m := by
      have := s.dcnt.isLt
      rw [BitVec.toNat_sub]; simp; omega
    let u : State := { s with portWe := false, rspValid := false, dcnt := s.dcnt - 1, inputs := s.inputs.tail }
    have hs : step s = .next u := by
      rw [step_ser hr hm]; simp [State.serStep, hp, State.serH1, hd0, State.edgeDefaults, State.popInput, u]
    have hu := ih u (e + 1) hm hp hd1 (noReset_of_inputs hr rfl)
    have := (Stretch.one e hs hm rfl).append hu
    rw [Nat.add_comm 1] at this
    simpa [u] using this

/-- The state in which a bit ends: the pulse of SH[0] written, SH shifted, the inputs of its T edges used up. -/
def State.afterPulse (s : State) : State :=
  { s with port := pattern (s.sh.getLsbD 0), portWe := decide (s.dlyBit = 0), rspValid := false, sh := s.sh >>> 1,
           phase := if s.dlyBit = 0 then .w1 else .h1,
           dcnt := if s.dlyRst = 0 ∧ s.dlyBit = 0 then s.dcnt else 0x00,
           inputs := s.inputs.drop s.pulseEdges }

/-- The reset write and its hold: 1 + DLY_RST edges. -/
theorem reset_half_stretch {s : State} (p : Nat) (hm : s.mode = .ser) (hp : s.phase = .w0)
    (hr : noReset (1 + s.dlyRst.toNat) s = true) :
    Stretch .ser (p + 1) (1 + s.dlyRst.toNat) s
      { s with port := Config.pReset, portWe := decide (s.dlyRst = 0), rspValid := false, phase := .w1,
               dcnt := if s.dlyRst = 0 then s.dcnt else 0x00, inputs := s.inputs.drop (1 + s.dlyRst.toNat) }
      [(p + 1, Config.pReset)] := by
  rw [Nat.add_comm 1] at hr ⊢
  by_cases h0 : s.dlyRst = 0#8
  · have hs : step s = .next { s with port := Config.pReset, portWe := true, rspValid := false, phase := .w1,
                                      inputs := s.inputs.tail } := by
      rw [step_ser hr hm]; simp [State.serStep, hp, State.serW0, h0, State.edgeDefaults, State.popInput, State.portWrite]
    simpa [h0] using Stretch.one (p + 1) hs hm rfl
  · let u : State := { s with port := Config.pReset, portWe := true, rspValid := false, phase := .h0, dcnt := s.dlyRst - 1,
                              inputs := s.inputs.tail }
    have hs : step s = .next u := by
      rw [step_ser hr hm]
      simp [State.serStep, hp, State.serW0, h0, State.edgeDefaults, State.popInput, State.portWrite, u]
    have hpos : s.dlyRst.toNat ≠ 0 := fun h => h0 (BitVec.eq_of_toNat_eq h)
    obtain ⟨m, hm1⟩ := Nat.exists_eq_succ_of_ne_zero hpos
    have hd : (s.dlyRst - 1).toNat = m := by
      have := s.dlyRst.isLt
      rw [BitVec.toNat_sub]; simp; omega
    have hu := hold_reset_stretch m u (p + 1 + 1) hm rfl hd (by rw [← Nat.succ_eq_add_one, ← hm1]; exact noReset_of_inputs hr rfl)
    have := (Stretch.one (p + 1) hs hm rfl).append hu
    rw [Nat.add_comm 1] at this
    simpa [u, h0, hm1] using this

/-- The bit-pattern write and its hold: 1 + DLY_BIT edges. -/
theorem bit_half_stretch {s : State} (p : Nat) (hm : s.mode = .ser) (hp : s.phase = .w1)
    (hr : noReset (1 + s.dlyBit.toNat) s = true) :
    Stretch .ser p (1 + s.dlyBit.toNat) s
      (State.bitDone { s with port := pattern (s.sh.getLsbD 0), portWe := decide (s.dlyBit = 0), rspValid := false, sh := s.sh >>> 1,
                              phase := if s.dlyBit = 0 then .w1 else .h1,
                              dcnt := if s.dlyBit = 0 then s.dcnt else 0x00, inputs := s.inputs.drop (1 + s.dlyBit.toNat) })
      [(p, pattern (s.sh.getLsbD 0))] := by
  rw [Nat.add_comm 1] at hr ⊢
  by_cases h0 : s.dlyBit = 0#8
  · have hs : step s = .next (State.bitDone { s with port := pattern (s.sh.getLsbD 0), portWe := true, rspValid := false,
                                                     sh := s.sh >>> 1, inputs := s.inputs.tail }) := by
      rw [step_ser hr hm]; simp [State.serStep, hp, State.serW1, h0, State.edgeDefaults, State.popInput, State.portWrite]
    have := Stretch.one p hs hm (by rw [(bitDone_frame _).2.2.2.2.2.2.2.2.1])
    rw [(bitDone_frame _).2.2.1, (bitDone_frame _).2.1] at this
    simpa [h0, ← hp] using this
  · let u : State := { s with port := pattern (s.sh.getLsbD 0), portWe := true, rspValid := false, sh := s.sh >>> 1, phase := .h1,
                              dcnt := s.dlyBit - 1, inputs := s.inputs.tail }
    have hs : step s = .next u := by
      rw [step_ser hr hm]
      simp [State.serStep, hp, State.serW1, h0, State.edgeDefaults, State.popInput, State.portWrite, u]
    have hpos : s.dlyBit.toNat ≠ 0 := fun h => h0 (BitVec.eq_of_toNat_eq h)
    obtain ⟨m, hm1⟩ := Nat.exists_eq_succ_of_ne_zero hpos
    have hd : (s.dlyBit - 1).toNat = m := by
      have := s.dlyBit.isLt
      rw [BitVec.toNat_sub]; simp; omega
    have hu := hold_bit_stretch m u (p + 1) hm rfl hd (by rw [← Nat.succ_eq_add_one, ← hm1]; exact noReset_of_inputs hr rfl)
    have := (Stretch.one p hs hm rfl).append hu
    rw [Nat.add_comm 1] at this
    simpa [u, h0, hm1] using this

/-- One pulse loaded at edge p: T edges, the reset write at p + 1 and the bit pattern at p + 2 + DLY_RST (41_serializer.md R93). -/
theorem pulse_stretch {s : State} (p : Nat) (hm : s.mode = .ser) (hp : s.phase = .w0) (hr : noReset s.pulseEdges s = true) :
    Stretch .ser (p + 1) s.pulseEdges s s.afterPulse.bitDone (pulseWrites s.dlyRst p (s.sh.getLsbD 0)) := by
  have hT : s.pulseEdges = (1 + s.dlyRst.toNat) + (1 + s.dlyBit.toNat) := by unfold State.pulseEdges; omega
  have r1 := reset_half_stretch p hm hp (noReset_le hr (by omega))
  have r2 := bit_half_stretch (p + 1 + (1 + s.dlyRst.toNat))
    (s := { s with port := Config.pReset, portWe := decide (s.dlyRst = 0), rspValid := false, phase := .w1,
                   dcnt := if s.dlyRst = 0 then s.dcnt else 0x00, inputs := s.inputs.drop (1 + s.dlyRst.toNat) })
    hm rfl (noReset_drop (m := 1 + s.dlyRst.toNat) (by rw [← hT]; exact hr) rfl)
  have := r1.append r2
  rw [← hT] at this
  convert this using 1
  · unfold State.afterPulse
    congr 1
    by_cases h1 : s.dlyRst = 0#8 <;> by_cases h2 : s.dlyBit = 0#8 <;> (simp [h1, h2, hT]; try omega)
  · simp only [pulseWrites, List.singleton_append]
    rw [show p + 1 + (1 + s.dlyRst.toNat) = p + 2 + s.dlyRst.toNat by omega]

end Sys2Proof.Machine
end

