-- ==== Sys2Proof/Tests/Slice0.lean ====
section
/-! SUPPORT. Tests. Expected values are those of 95_test_vectors.md, or worked out by hand from the rule a test names; `test_witness_<Name>`
shows concrete values that meet the hypotheses of the obligation `<Name>`, one per clause. -/

namespace Sys2Proof.Tests

open Sys2Proof.Machine

/-! ### Helpers -/

/-- The reset state with the words of the coming edges offered. -/
def offered (ws : List Word) : State := { State.reset with inputs := ws.map .offer }

/-- The state after one edge. -/
def after (s : State) : State :=
  match step s with
  | .next t => t
  | _ => s

theorem step_after (s : State) : step s = .next (after s) := by
  obtain ⟨t, h⟩ := step_next s
  simp only [after, h]

/-- The reset edge's inputs, a word offered all the while. -/
def resetting : EdgeInput := { rst := true, cmdValid := true, cmdWord := 0x10000005 }

/-- A serializer in the middle of an EMIT of bits whose next is 1, with DLY_RST = 1 and DLY_BIT = 2 (the settings of SER10). -/
def emitting (ph : Phase) (d : Byte) : State :=
  { State.reset with mode := .ser, dlyRst := 1, dlyBit := 2, sh := 0x55, phase := ph, dcnt := d }

/-- The last micro-step of the last bit of the cell at a scan position, with delays 0. -/
def scanning (i : Index) (k : Byte) (j : Index) (r : Byte) : State :=
  { State.reset with mode := .ser, src := .scan, i := i, k := k, j := j, repeatCount := r, b := 7, phase := .w1,
                     fb := [(9, 0x77), (29, 0xB0)] }

/-- A FILL with value 0x33 about to write cell `a`. -/
def filling (a : CellAddr) : State := { State.reset with mode := .fill, fcnt := a, fval := 0x33 }

/-! ### WellFormed: a number that does not fit its field is refused (30_encoding.md R71) -/

theorem test_wellFormed_row : (AsmCmd.wr 16 0 0).wellFormed = false ∧ (AsmCmd.rd 16 0).wellFormed = false ∧
    (AsmCmd.wr 15 15 0xFFFF).wellFormed = true := by decide

theorem test_wellFormed_column : (AsmCmd.wr 0 16 0).wellFormed = false ∧ (AsmCmd.rd 0 16).wellFormed = false ∧
    (AsmCmd.rd 15 15).wellFormed = true := by decide

theorem test_wellFormed_select : (AsmCmd.cfgw 16 0).wellFormed = false ∧ (AsmCmd.cfgr 16).wellFormed = false ∧
    (AsmCmd.cfgr 15).wellFormed = true := by decide

theorem test_wellFormed_value : (AsmCmd.wr 0 0 0x10000).wellFormed = false ∧ (AsmCmd.fill 0x10000).wellFormed = false ∧
    (AsmCmd.emit 0x10000).wellFormed = false ∧ (AsmCmd.cfgw 0 0x10000).wellFormed = false ∧
    (AsmCmd.emit 0xFFFF).wellFormed = true := by decide

theorem test_wellFormed_lines : (AsmLine.cmd (.rd 16 0)).wellFormed = false ∧ (AsmLine.setRepeat 0x10000).wellFormed = false ∧
    (AsmLine.setDelay 0 0x10000).wellFormed = false ∧ (AsmLine.set 0 0 0x10000).wellFormed = false ∧
    (AsmLine.set 0 16 0).assemble = none := by decide

/-! ### Decoding (95_test_vectors.md section 2.1, word by word; opcodes and fields of 30_encoding.md R60, R66) -/

theorem test_decode_nop : decode 0x00000000 = .nop ∧ decode 0x0FFFFFFF = .nop := by decide

theorem test_decode_wr : decode 0x135000B0 = .wr 3 5 0xB0 ∧ decode 0x1350FFB0 = .wr 3 5 0xB0 ∧ decode 0x135F00B0 = .wr 3 5 0xB0 ∧
    decode 0x18000012 = .wr 8 0 0x12 := by decide

theorem test_decode_rd : decode 0x23500000 = .rd 3 5 ∧ decode 0x2350ABCD = .rd 3 5 := by decide

theorem test_decode_fill : decode 0x300001FF = .fill 0xFF ∧ decode 0x3FF00011 = .fill 0x11 := by decide

theorem test_decode_emit : decode 0x400001FF = .emit 0xFF ∧ decode 0x400000FF = .emit 0xFF := by decide

theorem test_decode_refresh : decode 0x50000000 = .refresh ∧ decode 0x5FFFFFFF = .refresh := by decide

theorem test_decode_cfgw : decode 0x61000003 = .cfgw 1 3 ∧ decode 0x63000002 = .cfgw 3 2 ∧ decode 0x67000001 = .cfgw 7 1 := by decide

theorem test_decode_cfgr : decode 0x73000000 = .cfgr 3 ∧ decode 0x75000000 = .cfgr 5 := by decide

theorem test_decode_illegal : decode 0x80000000 = .illegal ∧ decode 0xF1234567 = .illegal := by decide

/-- The format's fields written out bit by bit: 0001 0011 0101 0000 00000000 10110000 (30_encoding.md R60). -/
theorem test_encode_wr : encode (.wr 3 5 0xB0) = 0b00010011010100000000000010110000#32 := by decide

theorem test_decodeTableWord : decodeTableWord 32 0x135000B0 = some (.wr 3 5 0xB0) ∧ decodeTableWord 8 0xFF = some .nop := by decide

/-! ### The assembler (30_encoding.md R71, R72; the words of 95_test_vectors.md section 3) -/

theorem test_assemble_wr : Assembler.assembleText "WR 3, 5, 0xB0 ; one cell".toList = some [0x135000B0] := by decide

theorem test_assemble_names : Assembler.assembleText "CFGW DLY_RST, 1".toList = some [0x61000001] ∧
    Assembler.assembleText "CFGR STATUS".toList = some [0x73000000] ∧
    Assembler.assembleText "CFGR 5".toList = some [0x75000000] := by decide

theorem test_assemble_pseudo : Assembler.assembleText "CLEAR".toList = some [0x30000000] ∧
    Assembler.assembleText "CLRERR".toList = some [0x63000002] ∧
    Assembler.assembleText "SETREPEAT 0b1".toList = some [0x60000001] ∧
    Assembler.assembleText "SETDELAY 1, 2".toList = some [0x61000001, 0x62000002] ∧
    Assembler.assembleText "SET 0,0,0x100".toList = some [0x10000100] := by decide

theorem test_assemble_rejects : Assembler.assembleText "RD 16, 0".toList = none ∧ Assembler.assembleText "FILL 65536".toList = none ∧
    Assembler.assembleText "EMIT 0b2".toList = none ∧ Assembler.assembleText "WR 1, 2".toList = none ∧
    Assembler.assembleText "  ; nothing".toList = some [] := by decide

/-! ### One edge of each command -/

/-- FB11. -/
theorem test_nop : after { offered [0x00000000] with err := true, errCode := 0b01 } =
    { State.reset with err := true, errCode := 0b01 } := by decide

/-- FB12: row 3, column 5 is cell 29. -/
theorem test_wr : after (offered [0x135000B0]) = { State.reset with fb := [(29, 0xB0)] } := by decide

/-- FB3. -/
theorem test_wr_out_of_range : after (offered [0x18000011]) = { State.reset with err := true, errCode := 0b01 } := by decide

/-- FB2, its second command. -/
theorem test_rd : after { offered [0x27700000] with fb := [(63, 0xAB)] } =
    { State.reset with fb := [(63, 0xAB)], rspValid := true, rspErr := false, rspData := 0xAB } := by decide

/-- FB5. -/
theorem test_rd_out_of_range : after (offered [0x2FF00000]) =
    { State.reset with err := true, errCode := 0b01, rspValid := true, rspErr := true, rspData := 0x00 } := by decide

/-- FB7, its accepting edge (R77). -/
theorem test_fill_start : after (offered [0x300001FF]) = { State.reset with mode := .fill, fcnt := 0, fval := 0xFF } := by decide

/-- FB8: the edge that writes the last cell ends the command (R78). -/
theorem test_fill_step : (after (filling 62)).fb = [(62, 0x33)] ∧ (after (filling 62)).mode = .fill ∧
    (after (filling 62)).fcnt = 63 ∧ (after (filling 63)).fb = [(63, 0x33)] ∧ (after (filling 63)).mode = .idle := by decide

/-- SER3, its accepting edge (R84, R85). -/
theorem test_emit_start : after (offered [0x400001FF]) = { State.reset with mode := .ser, sh := 0xFF } := by decide

/-- SER10, its table of micro-steps for a bit that is 1, edges 1 to 5. -/
theorem test_emit_micro_steps :
    after (emitting .w0 0) = { emitting .h0 0 with port := 0x00, portWe := true } ∧
    after (emitting .h0 0) = emitting .w1 0 ∧
    after (emitting .w1 0) = { emitting .h1 1 with port := Config.pOne, portWe := true, sh := 0x2A } ∧
    after (emitting .h1 1) = emitting .h1 0 ∧
    after (emitting .h1 0) = { emitting .w0 0 with b := 1 } := ⟨rfl, rfl, rfl, rfl, rfl⟩

/-- SCN2 and R96 with REPEAT = 8. -/
theorem test_refresh_start : after { offered [0x50000000] with repeatCount := 0 } = { State.reset with repeatCount := 0 } ∧
    after { offered [0x5FFFFFFF] with fb := [(0, 0x5A)] } =
      { State.reset with fb := [(0, 0x5A)], mode := .ser, src := .scan, sh := 0x5A } := by decide

/-- R98, R97: after row 2 of column 5 comes row 3 of column 5, which is cell 29 (E8); after the last position the scan ends. -/
theorem test_scan_advance :
    ((after (scanning 5 0 2 1)).i, (after (scanning 5 0 2 1)).k, (after (scanning 5 0 2 1)).j, (after (scanning 5 0 2 1)).sh) =
      (5, 0, 3, 0xB0) ∧ (after (scanning 7 0 7 1)).mode = .idle := by decide

/-- CFG2 (truncation) and CFG4 (a constant's register). -/
theorem test_cfgw : (after (offered [0x60000108])).repeatCount = 0x08 ∧ (after (offered [0x61000009])).dlyRst = 0x09 ∧
    (after (offered [0x620000FF])).dlyBit = 0xFF ∧
    after (offered [0x64000000]) = { State.reset with err := true, errCode := 0b11 } := by decide

/-- CFG6 and CFG7. -/
theorem test_cfgw_status : (after { offered [0x63000002] with err := true, errCode := 0b01 }).err = false ∧
    (after { offered [0x630000FD] with err := true, errCode := 0b01 }).errCode = 0b01 := by decide

/-- CFG1 and CFG4: STATUS with ERR = 1 and ERRCODE = 0b11 reads 0x0E. -/
theorem test_cfgr : (after (offered [0x70000000])).rspData = 0x08 ∧
    (after { offered [0x73000000] with err := true, errCode := 0b11 }).rspData = 0x0E ∧
    (after (offered [0x74000000])).rspData = Config.pOne := ⟨rfl, rfl, rfl⟩

/-- CFG5. -/
theorem test_cfgr_unimplemented : after (offered [0x76000000]) =
    { State.reset with err := true, errCode := 0b11, rspValid := true, rspErr := true, rspData := 0x00 } := by decide

/-- ERR1, and ERR2 (the first error is kept). -/
theorem test_illegal : after (offered [0x80000000]) = { State.reset with err := true, errCode := 0b10 } ∧
    (after { offered [0x90000000] with err := true, errCode := 0b01 }).errCode = 0b01 := by decide

/-- RST3: the reset edge, whatever the state was and whatever is offered. -/
theorem test_reset : after { scanning 5 0 2 1 with inputs := [resetting] } = State.reset := by decide

/-- FB8: a word offered to a busy machine is not taken. -/
theorem test_busy : after { filling 5 with inputs := [.offer 0x80000000] } = after (filling 5) := by decide

/-- A word placed for fetching is the next one to run, from reset and from a busy state. -/
theorem test_withFetchWord : after (State.reset.withFetchWord 32 0x135000B0) = { State.reset with fb := [(29, 0xB0)] } ∧
    (after ((filling 5).withFetchWord 32 0x135000B0)).fb = [(29, 0xB0)] := by decide

/-! ### Witnesses: encoding -/

theorem test_witness_DecodeOfEncodeIsTheCommand : (Instr.wr 15 15 0xFF).wellFormed = true ∧ (Instr.cfgw 15 0xFF).wellFormed = true ∧
    Instr.illegal.wellFormed = true := by decide

theorem test_witness_DecoderPicksTheOneSelectingRow : (0x1FFFFFFF : Word) &&& rowMask (.wr 0 0 0) = rowMatch (.wr 0 0 0) ∧
    (0xF0000000 : Word) &&& rowMask .illegal = rowMatch .illegal := by decide

/-- The hypotheses of `IgnoredFieldsChangeNothing`. -/
abbrev SameUsedFields (w w' : Word) : Prop :=
  opField w = opField w' ∧
  (opField w = 1 ∨ opField w = 2 ∨ opField w = 6 ∨ opField w = 7 → raField w = raField w') ∧
  (opField w = 1 ∨ opField w = 2 → cbField w = cbField w') ∧
  (opField w = 1 ∨ opField w = 3 ∨ opField w = 4 ∨ opField w = 6 → valueField w = valueField w')

theorem test_witness_IgnoredFieldsChangeNothing :
    SameUsedFields 0x00000000 0x0FFFFFFF ∧ SameUsedFields 0x135F00B0 0x1350FFB0 ∧ SameUsedFields 0x23500000 0x235FABCD ∧
    SameUsedFields 0x300000FF 0x3FFFFFFF ∧ SameUsedFields 0x400000FF 0x4FFF01FF ∧ SameUsedFields 0x50000000 0x5FFFFFFF ∧
    SameUsedFields 0x63000002 0x63FFFF02 ∧ SameUsedFields 0x7F000000 0x7FFFFFFF ∧ SameUsedFields 0xF0000000 0xFFFFFFFF := by
  refine ⟨?_, ?_, ?_, ?_, ?_, ?_, ?_, ?_, ?_⟩ <;> exact ⟨by decide, by decide, by decide, by decide⟩

theorem test_witness_ValueOperandIsTheLowByte : opField 0x1350FFB0 = 1 ∧ opField 0x300001FF = 3 ∧ opField 0x400001FF = 4 ∧
    opField 0x61000003 = 6 := by decide

theorem test_witness_ReservedOpcodesRaiseIllegal : ¬ 8 ≤ (opField 0x7FFFFFFF).toNat ∧ 8 ≤ (opField 0x80000000).toNat ∧
    8 ≤ (opField 0xFFFFFFFF).toNat := by decide

theorem test_witness_AssemblerWordsFollowTheSyntaxTable : (AsmCmd.wr 15 15 0xFFFF).wellFormed = true ∧ (15 : Nat) ≤ 15 ∧
    (0xFFFF : Nat) ≤ 0xFFFF ∧ (AsmLine.setDelay 0xFFFF 0).assemble ≠ none ∧ (AsmLine.setDelay 0 0x10000).assemble = none ∧
    (∀ c ∈ (AsmLine.setDelay 0xFFFF 0).expand, c.wellFormed = true) := by decide

theorem test_witness_PseudoInstructionsExpandInOrder : (0xFFFF : Nat) ≤ 0xFFFF ∧ (0 : Nat) ≤ 0xFFFF ∧ (15 : Nat) ≤ 15 ∧
    (0 : Nat) ≤ 15 := by decide

/-! ### Witnesses: the edge, reset and the handshake -/

theorem test_witness_StepFollowsResetModeAndValid :
    ({ filling 5 with inputs := [resetting] }).inputs = resetting :: [] ∧ resetting.rst = true ∧
    (offered [0x135000B0]).inputs = EdgeInput.offer 0x135000B0 :: [] ∧ (EdgeInput.offer 0x135000B0).rst = false ∧
    (offered [0x135000B0]).mode = .idle ∧ (EdgeInput.offer 0x135000B0).cmdValid = true ∧
    EdgeInput.quiet.rst = false ∧ EdgeInput.quiet.cmdValid = false ∧
    (filling 63).mode = .fill ∧ (emitting .w0 0).mode = .ser := by decide

theorem test_witness_UnreadyCommandIsNotTaken :
    State.reset.cmdReady (EdgeInput.offer 0).rst = true ∧ (EdgeInput.offer 0).cmdValid = true ∧
    State.reset.cmdReady EdgeInput.quiet.rst = true ∧ EdgeInput.quiet.cmdValid = false ∧
    State.reset.cmdReady true = false ∧ (filling 0).cmdReady false = false ∧ (emitting .h1 0).cmdReady false = false := by decide

theorem test_witness_ResetEdgeSetsEveryElement : resetting.rst = true := by decide

theorem test_witness_HeldResetThenFirstCommand :
    [resetting, resetting, resetting] ≠ [] ∧ (∀ inp ∈ [resetting, resetting, resetting], inp.rst = true) ∧
    ({ emitting .w1 0 with inputs := [resetting, resetting, resetting, .offer 0x10000005] }).inputs =
      [resetting, resetting, resetting] ++ .offer 0x10000005 :: [] ∧
    [resetting] ≠ [] ∧ (∀ inp ∈ [resetting], inp.rst = true) := by decide

theorem test_witness_NoPortWriteAfterReset :
    ({ emitting .w1 0 with inputs := [resetting, .quiet, resetting] }).nextInput.rst = true ∧
    (∀ inp ∈ ({ emitting .w1 0 with inputs := [resetting, .quiet, .quiet] }).inputs.tail.take 100, inp.cmdValid = false) := by decide

/-! ### Witnesses: whole-machine rules -/

theorem test_witness_PortWritesOnlyAtSerializerWrites :
    (step (emitting .w0 0) = .next (after (emitting .w0 0)) ∧ (after (emitting .w0 0)).portWe = true) ∧
    (step (emitting .w1 0) = .next (after (emitting .w1 0)) ∧ (after (emitting .w1 0)).portWe = true) ∧
    (step (emitting .h0 0) = .next (after (emitting .h0 0)) ∧ (after (emitting .h0 0)).portWe = false ∧
      (emitting .h0 0).nextInput.rst = false) :=
  ⟨⟨step_after _, rfl⟩, ⟨step_after _, rfl⟩, ⟨step_after _, rfl, rfl⟩⟩

theorem test_witness_OnlyReadsRespond :
    (step (offered [0x2FF00000]) = .next (after (offered [0x2FF00000])) ∧ (after (offered [0x2FF00000])).rspValid = true) ∧
    (accepted (offered [0x2FF00000]).nextInput (offered [0x2FF00000]) = some (.rd 15 15)) ∧
    (accepted (offered [0x75000000]).nextInput (offered [0x75000000]) = some (.cfgr 5)) ∧
    (accepted (offered [0x76000000]).nextInput (offered [0x76000000]) = some (.cfgr 6)) ∧
    (step (offered [0x7F000000]) = .next (after (offered [0x7F000000])) ∧ (after (offered [0x7F000000])).rspValid = true) ∧
    (step (filling 0) = .next (after (filling 0)) ∧ (after (filling 0)).rspValid = false ∧ (filling 0).nextInput.rst = false) :=
  ⟨⟨step_after _, by decide⟩, by decide, by decide, by decide, ⟨step_after _, by decide⟩, ⟨step_after _, by decide⟩⟩

/-- One state for each cause of an error, each clearing, each command that leaves the record, and an edge without a command. -/
theorem test_witness_ErrorRecordKeepsTheFirstError :
    (({ filling 5 with inputs := [resetting] }).nextInput.rst = true ∧ ∃ t, step { filling 5 with inputs := [resetting] } = .next t) ∧
    (accepted (offered [0x10800000]).nextInput (offered [0x10800000]) = some (.wr 0 8 0) ∧ rejection (.wr 0 8 0) = some .range) ∧
    (accepted (offered [0x80000000]).nextInput (offered [0x80000000]) = some .illegal ∧ rejection .illegal = some .illegal) ∧
    (accepted (offered [0x64000000]).nextInput (offered [0x64000000]) = some (.cfgw 4 0) ∧ rejection (.cfgw 4 0) = some .badReg) ∧
    (accepted (offered [0x76000000]).nextInput (offered [0x76000000]) = some (.cfgr 6) ∧ rejection (.cfgr 6) = some .badReg) ∧
    (accepted (offered [0x63000002]).nextInput (offered [0x63000002]) = some (.cfgw 3 2) ∧ rejection (.cfgw 3 2) = none ∧
      clearsError (.cfgw 3 2) = true) ∧
    (accepted (offered [0x630000FD]).nextInput (offered [0x630000FD]) = some (.cfgw 3 0xFD) ∧ rejection (.cfgw 3 0xFD) = none ∧
      clearsError (.cfgw 3 0xFD) = false) ∧
    (accepted (filling 0).nextInput (filling 0) = none ∧ (filling 0).nextInput.rst = false) ∧
    (∃ t, step (offered [0x10800000]) = .next t) := by
  refine ⟨⟨by decide, _, rfl⟩, by decide, by decide, by decide, by decide, by decide, by decide, by decide, _, rfl⟩

theorem test_witness_FramebufferChangesOnlyByWrFillReset :
    (step (filling 63) = .next (after (filling 63)) ∧ (filling 63).nextInput.rst = false ∧
      (after (filling 63)).fb.read 63 ≠ (filling 63).fb.read 63) ∧
    (step (offered [0x135000B0]) = .next (after (offered [0x135000B0])) ∧ (offered [0x135000B0]).nextInput.rst = false ∧
      (after (offered [0x135000B0])).fb.read 29 ≠ (offered [0x135000B0]).fb.read 29) :=
  ⟨⟨step_after _, by decide⟩, ⟨step_after _, by decide⟩⟩

theorem test_witness_ConfigChangesOnlyByCfgw :
    (step (offered [0x60000001]) = .next (after (offered [0x60000001])) ∧ (offered [0x60000001]).nextInput.rst = false) ∧
    (after (offered [0x60000001])).repeatCount ≠ (offered [0x60000001]).repeatCount ∧
    (after (offered [0x61000001])).dlyRst ≠ (offered [0x61000001]).dlyRst ∧
    (after (offered [0x62000001])).dlyBit ≠ (offered [0x62000001]).dlyBit :=
  ⟨⟨step_after _, by decide⟩, by decide⟩

theorem test_witness_BusyFromAcceptanceToCompletion :
    (step (offered [0x50000000]) = .next (after (offered [0x50000000])) ∧ (offered [0x50000000]).nextInput.rst = false ∧
      (offered [0x50000000]).mode = .idle) ∧
    (step (filling 62) = .next (after (filling 62)) ∧ (filling 62).nextInput.rst = false ∧ (filling 62).mode = .fill) ∧
    (step (filling 63) = .next (after (filling 63)) ∧ (filling 63).nextInput.rst = false ∧ (filling 63).mode = .fill) ∧
    ((∃ t, step (scanning 7 0 7 1) = .next t) ∧ (scanning 7 0 7 1).nextInput.rst = false ∧ (scanning 7 0 7 1).mode = .ser ∧
      (scanning 7 0 7 1).cellEnds = true ∧ (scanning 7 0 7 1).scanNext = none) ∧
    ((scanning 7 0 6 1).cellEnds = true ∧ (scanning 7 0 6 1).scanNext ≠ none ∧ (emitting .w1 0).cellEnds = false) := by
  exact ⟨⟨step_after _, by decide⟩, ⟨step_after _, by decide⟩, ⟨step_after _, by decide⟩, ⟨⟨_, step_after _⟩, by decide⟩, by decide⟩

theorem test_witness_SingleEdgeCommandsStayReady : State.reset.mode = .idle ∧ singleEdge .nop = true ∧ singleEdge (.wr 8 0 0) = true ∧
    singleEdge (.rd 7 7) = true ∧ singleEdge (.cfgw 15 0) = true ∧ singleEdge (.cfgr 0) = true ∧ singleEdge .illegal = true := by decide

/-! ### Witnesses: the array and its ports -/

theorem test_witness_ArrayPortsReadOldWriteNewAWins :
    Memory.wf [(9, 0x77), (63, 0x01)] = true ∧
    ((PortReq.read 9).en = true ∧ (PortReq.read 9).we = false) ∧
    ((PortReq.write 9 0x11).en = true ∧ (PortReq.write 9 0x11).we = true) ∧
    ((PortReq.write 9 0x11).addr ≠ (PortReq.write 63 0x22).addr) ∧
    ((PortReq.read 9).en = true → (PortReq.read 9).we = true → (PortReq.read 9).addr ≠ 9) ∧
    ((PortReq.write 9 0x11).en = true → (PortReq.write 9 0x11).we = true → (PortReq.write 9 0x11).addr ≠ 0) := by decide

theorem test_witness_FramebufferIsTheTwoPortArray :
    (step { offered [0x27700000] with fb := [(63, 0xAB)] } = .next (after { offered [0x27700000] with fb := [(63, 0xAB)] }) ∧
      (offered [0x27700000]).nextInput.rst = false ∧
      (portA (.offer 0x27700000) { offered [0x27700000] with fb := [(63, 0xAB)] }).rdata [(63, 0xAB)] = some 0xAB) ∧
    (portB (.offer 0x50000000) { offered [0x50000000] with fb := [(0, 0x5A)] }).rdata [(0, 0x5A)] = some 0x5A ∧
    (portB .quiet (scanning 5 0 2 1)).rdata (scanning 5 0 2 1).fb = some 0xB0 ∧
    (accepted (offered [0x27700000]).nextInput (offered [0x27700000]) = some (.rd 7 7) ∧ inRange 7 7 = true) ∧
    (accepted (offered [0x50000000]).nextInput (offered [0x50000000]) = some .refresh ∧ (offered [0x50000000]).repeatCount ≠ 0) ∧
    ((scanning 5 0 2 1).cellEnds = true ∧ (scanning 5 0 2 1).src = .scan ∧
      (scanning 5 0 2 1).scanNext = some { i := 5, k := 0, j := 3 }) :=
  ⟨⟨step_after _, by decide⟩, by decide⟩

theorem test_witness_PortsAreNeverEnabledTogether : (portA .quiet (filling 63)).en = true ∧
    (portA (.offer 0x23500000) (offered [0x23500000])).en = true ∧ (portB .quiet (scanning 5 0 2 1)).en = true := by decide

theorem test_witness_CellAddressIsRowMajor : inRange 7 7 = true ∧ inRange 0 0 = true ∧ inRange 8 0 = false ∧ inRange 0 8 = false ∧
    addr 7 7 = addr 7 7 := by decide

theorem test_witness_ScanTransposesRowsAndColumns : inRange 3 5 = true ∧ scanAddr 5 3 = addr 3 5 ∧ scanAddr 3 5 ≠ addr 3 5 ∧
    inRange 7 7 = true := by decide

/-! ### Witnesses: framebuffer commands -/

theorem test_witness_NopChangesNothing : State.reset.mode = .idle ∧ opField 0x0FFFFFFF = 0 := by decide

theorem test_witness_WrStoresTheOneCell : (8 ≤ (8 : Nibble).toNat ∨ 8 ≤ (0 : Nibble).toNat) ∧ (8 ≤ (7 : Nibble).toNat ∨ 8 ≤ (15 : Nibble).toNat) ∧ (7 : Nibble).toNat < 8 ∧ (0 : Nibble).toNat < 8 ∧
    ({ State.reset with fb := [(56, 0x01)] }).fb.wf = true := by decide

theorem test_witness_OutOfRangeIsRejected : (8 ≤ (8 : Nibble).toNat ∨ 8 ≤ (7 : Nibble).toNat) ∧
    (8 ≤ (7 : Nibble).toNat ∨ 8 ≤ (8 : Nibble).toNat) ∧ (8 ≤ (15 : Nibble).toNat ∨ 8 ≤ (15 : Nibble).toNat) := by decide

theorem test_witness_RdRespondsWithTheCell : ((7 : Nibble).toNat < 8 ∧ (0 : Nibble).toNat < 8) ∧
    (8 ≤ (8 : Nibble).toNat ∨ 8 ≤ (0 : Nibble).toNat) ∧ (8 ≤ (7 : Nibble).toNat ∨ 8 ≤ (15 : Nibble).toNat) := by decide

theorem test_witness_ReadAfterWriteSeesTheWrite :
    let s : State := { offered [0x135000B0, 0x23500000] with fb := [(29, 0x11)] }
    s.mode = .idle ∧ s.fb.wf = true ∧ s.inputs = .offer 0x135000B0 :: .offer 0x23500000 :: [] ∧
    decode 0x135000B0 = .wr 3 5 0xB0 ∧ decode 0x23500000 = .rd 3 5 ∧ decode 0x25300000 = .rd 5 3 ∧
    inRange 3 5 = true ∧ inRange 5 3 = true := by decide

theorem test_witness_FillStepWritesOneCell : EdgeInput.quiet.rst = false ∧ (filling 0).mode = .fill ∧ (filling 0).fb.wf = true ∧
    (filling 63).mode = .fill ∧ (filling 63).fb.wf = true ∧ (filling 63).fcnt = 63 := by decide

theorem test_witness_FillFillsAllCellsIn64Edges :
    (offered [0x30000033]).mode = .idle ∧ (offered [0x30000033]).fb.wf = true ∧
    (offered [0x30000033]).inputs = .offer 0x30000033 :: [] ∧ decode 0x30000033 = .fill 0x33 ∧
    noReset 65 (offered [0x30000033]) = true ∧ (0 : Nat) < 64 ∧ (63 : Nat) < 64 := by decide

theorem test_witness_FillThenReadReturnsTheValue :
    let s : State := { offered [] with inputs := .offer 0x300001FF :: (List.replicate 64 .quiet ++ [.offer 0x27700000]) }
    s.mode = .idle ∧ s.fb.wf = true ∧ s.inputs = .offer 0x300001FF :: (List.replicate 64 .quiet ++ [.offer 0x27700000]) ∧
    decode 0x300001FF = .fill 0xFF ∧ noReset 65 s = true ∧
    (List.replicate 64 EdgeInput.quiet ++ [EdgeInput.offer 0x27700000]).drop 64 = .offer 0x27700000 :: [] ∧
    decode 0x27700000 = .rd 7 7 ∧ inRange 7 7 = true := by decide

/-! ### Witnesses: the serializer -/

theorem test_witness_SerializerMicroSteps : EdgeInput.quiet.rst = false ∧
    ((emitting .w0 0).mode = .ser ∧ (emitting .w0 0).phase = .w0 ∧ (emitting .w0 0).dlyRst ≠ 0) ∧
    ((emitting .h0 0).phase = .h0 ∧ (emitting .h0 0).dcnt = 0 ∧ (emitting .h0 5).dcnt ≠ 0) ∧
    ((emitting .w1 0).phase = .w1 ∧ (emitting .w1 0).dlyBit ≠ 0 ∧ (scanning 0 0 0 1).phase = .w1 ∧ (scanning 0 0 0 1).dlyBit = 0 ∧
      (scanning 0 0 0 1).mode = .ser) ∧
    ((emitting .h1 0).phase = .h1 ∧ (emitting .h1 0).dcnt = 0 ∧ (emitting .h1 1).dcnt ≠ 0) := by decide

theorem test_witness_BitDoneGoesToTheNextBit : ({ emitting .w1 0 with b := 6 }).b.toNat < 7 ∧
    (({ emitting .w1 0 with b := 7 }).b = 7 ∧ ({ emitting .w1 0 with b := 7 }).src = .emit) ∧
    ((scanning 0 0 0 1).b = 7 ∧ (scanning 0 0 0 1).src = .scan) := by decide

theorem test_witness_PatternTellsTheBit : pattern true = pattern true := rfl

theorem test_witness_EmitWritesEightPulsesLsbFirst :
    (offered [0x4000000F]).mode = .idle ∧ (offered [0x4000000F]).inputs = .offer 0x4000000F :: [] ∧
    decode 0x4000000F = .emit 0x0F ∧ noReset (1 + 8 * (offered [0x4000000F]).pulseEdges) (offered [0x4000000F]) = true ∧
    (1 : Nat) ≤ 8 * (offered [0x4000000F]).pulseEdges := by decide

theorem test_witness_DelaysKeepValuesAndOrder :
    let s : State := offered [0x400001A5]
    let s' : State := { offered [0x400001A5] with dlyRst := 1, dlyBit := 2 }
    s.mode = .idle ∧ s'.mode = .idle ∧ s.inputs = .offer 0x400001A5 :: [] ∧ s'.inputs = .offer 0x400001A5 :: [] ∧
    decode 0x400001A5 = .emit 0xA5 ∧ noReset (1 + 8 * s.pulseEdges) s = true ∧ noReset (1 + 8 * s'.pulseEdges) s' = true := by decide

/-! ### Witnesses: the scanner -/

theorem test_witness_RefreshStartsTheScan : ({ State.reset with repeatCount := 0 }).repeatCount = 0 ∧ State.reset.repeatCount ≠ 0 ∧
    ({ State.reset with repeatCount := 0xFF }).repeatCount ≠ 0 := by decide

/-- J = 6 and 7, K + 1 below and at REPEAT (K = 254 with REPEAT = 255 too), I = 6 and 7. -/
theorem test_witness_ScanAdvanceOrder :
    (scanning 0 0 6 1).j ≠ 7 ∧
    ((scanning 0 0 7 2).j = 7 ∧ (scanning 0 0 7 2).k.toNat + 1 < (scanning 0 0 7 2).repeatCount.toNat) ∧
    ((scanning 6 1 7 2).j = 7 ∧ (scanning 6 1 7 2).repeatCount.toNat ≤ (scanning 6 1 7 2).k.toNat + 1 ∧ (scanning 6 1 7 2).i ≠ 7) ∧
    ((scanning 7 254 7 255).j = 7 ∧ (scanning 7 254 7 255).repeatCount.toNat ≤ (scanning 7 254 7 255).k.toNat + 1 ∧
      (scanning 7 254 7 255).i = 7) := by decide

/-- One pass over a framebuffer with one lit cell. -/
def onePass : State := { offered [0x50000000] with repeatCount := 1, fb := [(29, 0xB0)] }

theorem test_witness_RefreshScansInFixedOrder :
    onePass.mode = .idle ∧ onePass.repeatCount ≠ 0 ∧ onePass.inputs = .offer 0x50000000 :: [] ∧ decode 0x50000000 = .refresh ∧
    noReset (1 + 512 * onePass.repeatCount.toNat * onePass.pulseEdges) onePass = true ∧
    (1 : Nat) ≤ 512 * onePass.repeatCount.toNat * onePass.pulseEdges := by decide

theorem test_witness_RefreshMakes1024WritesPerPass :
    onePass.mode = .idle ∧ onePass.inputs = .offer 0x50000000 :: [] ∧ decode 0x50000000 = .refresh ∧
    noReset (1 + 512 * onePass.repeatCount.toNat * onePass.pulseEdges) onePass = true ∧
    ({ onePass with repeatCount := 0 }).mode = .idle ∧
    noReset (1 + 512 * ({ onePass with repeatCount := 0 } : State).repeatCount.toNat * onePass.pulseEdges)
      { onePass with repeatCount := 0 } = true := by decide

theorem test_witness_RefreshIsIdempotent :
    let t : State := { onePass with port := 0x12, inputs := [.offer 0x5FFFFFFF, .offer 0x80000000] }
    onePass.mode = .idle ∧ t.mode = .idle ∧ onePass.fb = t.fb ∧ onePass.repeatCount = t.repeatCount ∧ onePass.dlyRst = t.dlyRst ∧
    onePass.dlyBit = t.dlyBit ∧ onePass.inputs = .offer 0x50000000 :: [] ∧ t.inputs = .offer 0x5FFFFFFF :: [.offer 0x80000000] ∧
    decode 0x50000000 = .refresh ∧ decode 0x5FFFFFFF = .refresh ∧
    noReset (1 + 512 * onePass.repeatCount.toNat * onePass.pulseEdges) onePass = true ∧
    noReset (1 + 512 * onePass.repeatCount.toNat * onePass.pulseEdges) t = true := by decide

theorem test_witness_RefreshTimingIgnoresTheCells :
    let t : State := { onePass with fb := [(0, 0xFF), (63, 0x01)] }
    100 ≤ 1 + 512 * onePass.repeatCount.toNat * onePass.pulseEdges ∧
    onePass.mode = .idle ∧ t.mode = .idle ∧ onePass.repeatCount = t.repeatCount ∧ onePass.dlyRst = t.dlyRst ∧
    onePass.dlyBit = t.dlyBit ∧ onePass.inputs = .offer 0x50000000 :: [] ∧ t.inputs = .offer 0x50000000 :: [] ∧
    decode 0x50000000 = .refresh ∧ noReset 100 onePass = true ∧ noReset 100 t = true := by decide

/-! ### Witnesses: configuration and errors -/

theorem test_witness_CfgwWritesTheSelectedRegister : (0xFF : Byte).getLsbD 1 = true ∧ (0xFD : Byte).getLsbD 1 = false ∧
    4 ≤ (4 : Nibble).toNat ∧ 4 ≤ (15 : Nibble).toNat ∧ ¬ 4 ≤ (3 : Nibble).toNat := by decide

theorem test_witness_CfgrRespondsWithTheSelectedRegister : State.reset.mode = .idle ∧ 6 ≤ (6 : Nibble).toNat ∧ 6 ≤ (15 : Nibble).toNat ∧
    ¬ 6 ≤ (5 : Nibble).toNat := by decide

theorem test_witness_RejectedCommandHasNoOtherEffect : rejection (.wr 8 7 0) = some .range ∧ rejection (.rd 7 8) = some .range ∧
    rejection (.cfgw 4 0) = some .badReg ∧ rejection (.cfgr 6) = some .badReg ∧ rejection .illegal = some .illegal ∧
    rejection (.cfgw 3 0) = none ∧ rejection (.cfgr 5) = none ∧ rejection (.wr 7 7 0) = none := by decide

/-! ### Witnesses: invariants -/

theorem test_witness_StepKeepsTheCanonicalFramebuffer : ({ offered [0x10000100] with fb := [(0, 0x07)] }).fb.wf = true ∧
    step { offered [0x10000100] with fb := [(0, 0x07)] } = .next (after { offered [0x10000100] with fb := [(0, 0x07)] }) :=
  ⟨by decide, step_after _⟩

/-- A scan of cell 29 whose low four bits are out, at the bit pattern's write of bit 4. -/
def midScan : State :=
  { State.reset with fb := [(29, 0xB0)], mode := .ser, src := .scan, i := 5, k := 7, j := 3, b := 4, phase := .w1, sh := 0x0B }

/-- A FILL that has written two cells. -/
def midFill : State := { filling 2 with fb := [(0, 0x33), (1, 0x33), (9, 0x01)] }

theorem midScan_inv : Inv midScan where
  fb_canonical := by decide
  records := ⟨by decide, .inl rfl, by decide, by decide⟩
  progress := ⟨by decide, by decide, fun _ _ => rfl, by decide, by decide, by decide⟩

theorem midFill_inv : Inv midFill where
  fb_canonical := by decide
  records := ⟨by decide, .inl rfl, by decide, by decide⟩
  progress := ⟨by decide, by decide, fun h => absurd h (by decide), by decide, by decide, by decide⟩

theorem test_witness_StepKeepsTheInvariant : (Inv midScan ∧ step midScan = .next (after midScan)) ∧
    (Inv midFill ∧ step midFill = .next (after midFill)) := ⟨⟨midScan_inv, step_after _⟩, ⟨midFill_inv, step_after _⟩⟩

theorem test_witness_FramebufferIsItsCells : Memory.wf [(0, 0x01), (63, 0xFF)] = true ∧
    ∀ a : CellAddr, Memory.read [(0, 0x01), (63, 0xFF)] a = Memory.read [(0, 0x01), (63, 0xFF)] a := by decide

/-- Two idle states that differ in all the hidden state. -/
theorem test_witness_UnreadHiddenStateIsUnobservable :
    LookAlike (offered [0x50000000])
      { offered [0x50000000] with rspErr := true, rspData := 0x99, src := .scan, fcnt := 5, fval := 0x44, sh := 0x77, b := 3,
                                  phase := .h1, dcnt := 0x66, i := 2, k := 0x88, j := 6 } := by
  constructor <;> decide

end Sys2Proof.Tests
end

/-! ## What a step does to the records (10_state.md): the handshake, the response and the error record -/

namespace Sys2Proof.Machine

/-! ### The handshake (10_state.md R16, R37) -/

theorem cmdReady_iff {s : State} {rst : Bool} : s.cmdReady rst = true ↔ s.mode = .idle ∧ rst = false := by
  simp [State.cmdReady]

/-- With the next edge's inputs at the head of the list, a step is that edge on the state with the rest of the list. -/
theorem step_eq_edge {s : State} {inp : EdgeInput} {rest : List EdgeInput} (h : s.inputs = inp :: rest) :
    step s = edge inp { s with inputs := rest } := by
  rw [step, nextInput_cons h, popInput_cons h]

/-- An edge at which the machine is not ready does not look at what is offered (10_state.md R16, R36). -/
theorem edge_congr_of_not_ready {inp inp' : EdgeInput} {s : State} (hrst : inp.rst = inp'.rst)
    (h : s.cmdReady inp'.rst = false) : edge inp s = edge inp' s := by
  cases hr : inp'.rst with
  | true => rw [edge_rst (hrst.trans hr), edge_rst hr]
  | false =>
    cases hm : s.mode with
    | idle => rw [cmdReady_iff.mpr ⟨hm, hr⟩] at h; contradiction
    | fill => rw [edge_fill (hrst.trans hr) hm, edge_fill hr hm]
    | ser => rw [edge_ser (hrst.trans hr) hm, edge_ser hr hm]

theorem accepted_of_rst {inp : EdgeInput} (h : inp.rst = true) (s : State) : accepted inp s = none := by
  simp [accepted, State.cmdReady, h]

/-- The three things a step can be: reset, an accepted command, or an edge that runs no command. -/
theorem step_cases {s t : State} (h : step s = .next t) :
    (s.nextInput.rst = true ∧ accepted s.nextInput s = none ∧ t = s.popInput.applyReset) ∨
    (∃ i, s.nextInput.rst = false ∧ accepted s.nextInput s = some i ∧ exec i s.popInput.edgeDefaults = .next t) ∨
    (s.nextInput.rst = false ∧ accepted s.nextInput s = none ∧
      (t = s.popInput.edgeDefaults ∨ t = s.popInput.edgeDefaults.fillStep ∨ t = s.popInput.edgeDefaults.serStep)) := by
  obtain ⟨hr, ht⟩ | ⟨hr, hm, hv, hx⟩ | ⟨hr, hm, hv, ht⟩ | ⟨hr, hm, ht⟩ | ⟨hr, hm, ht⟩ := edge_cases h
  · exact .inl ⟨hr, accepted_of_rst hr s, ht⟩
  · exact .inr (.inl ⟨_, hr, accepted_eq_some.mpr ⟨hr, hm, hv, rfl⟩, hx⟩)
  · exact .inr (.inr ⟨hr, by simp [accepted, hv], .inl ht⟩)
  · rw [State.popInput_mode] at hm
    exact .inr (.inr ⟨hr, by simp [accepted, State.cmdReady, hm], .inr (.inl ht)⟩)
  · rw [State.popInput_mode] at hm
    exact .inr (.inr ⟨hr, by simp [accepted, State.cmdReady, hm], .inr (.inr ht)⟩)

/-- A step that accepts a command runs it on the state with the edge's defaults (10_state.md R36). -/
theorem exec_of_accepted {s t : State} {i : Instr} (h : step s = .next t) (ha : accepted s.nextInput s = some i) :
    exec i s.popInput.edgeDefaults = .next t := by
  obtain ⟨-, hn, -⟩ | ⟨j, -, hj, hx⟩ | ⟨-, hn, -⟩ := step_cases h
  · rw [hn] at ha; contradiction
  · rw [hj] at ha; cases ha; exact hx
  · rw [hn] at ha; contradiction

/-- A step outside reset that accepts no command leaves the error record and the response value, and gives no response. -/
theorem step_records_of_not_accepted {s t : State} (h : step s = .next t) (hr : s.nextInput.rst = false)
    (ha : accepted s.nextInput s = none) :
    t.err = s.err ∧ t.errCode = s.errCode ∧ t.rspValid = false ∧ t.rspErr = s.rspErr ∧ t.rspData = s.rspData := by
  obtain ⟨hr', -, -⟩ | ⟨i, -, hi, -⟩ | ⟨-, -, rfl | rfl | rfl⟩ := step_cases h
  · rw [hr] at hr'; contradiction
  · rw [ha] at hi; contradiction
  · exact ⟨rfl, rfl, rfl, rfl, rfl⟩
  · rw [fillStep_eq]; exact ⟨rfl, rfl, rfl, rfl, rfl⟩
  · obtain ⟨-, -, -, -, herr, hcode, hvalid, hrerr, hrdata, -⟩ := serStep_frame s.popInput.edgeDefaults
    exact ⟨herr, hcode, hvalid, hrerr, hrdata⟩

/-! ### What one command does, an equation or an inversion per case -/

theorem configReg_eq_none_iff {sel : Nibble} : configReg sel = none ↔ 6 ≤ sel.toNat := by
  revert sel; decide

theorem exec_wr_of_inRange {r c : Nibble} (h : inRange r c = true) (v : Byte) (s : State) :
    exec (.wr r c v) s = .next (s.hostWrite (addr r c) v) := by
  simp [exec, execWr, h]

theorem exec_rd_of_inRange {r c : Nibble} (h : inRange r c = true) (s : State) :
    exec (.rd r c) s = .next (s.respond false (s.fb.read (addr r c))) := by
  simp [exec, execRd, h, State.hostRead]

theorem exec_cfgr_of_some {sel : Nibble} {r : ConfigReg} (h : configReg sel = some r) (s : State) :
    exec (.cfgr sel) s = .next (s.respond false (s.configRead r)) := by
  simp [exec, execCfgr, h]

theorem statusWrite_err (s : State) (v : Byte) : (s.statusWrite v).err = if v.getLsbD 1 then false else s.err := by
  unfold State.statusWrite; split <;> rfl

theorem statusWrite_errCode (s : State) (v : Byte) : (s.statusWrite v).errCode = if v.getLsbD 1 then 0b00 else s.errCode := by
  unfold State.statusWrite; split <;> rfl

theorem statusWrite_response (s : State) (v : Byte) : (s.statusWrite v).rspValid = s.rspValid ∧
    (s.statusWrite v).rspErr = s.rspErr ∧ (s.statusWrite v).rspData = s.rspData := by
  unfold State.statusWrite; split <;> exact ⟨rfl, rfl, rfl⟩

/-- A CFGW of REPEAT, DLY_RST, DLY_BIT or STATUS, and of the selects it rejects (43_config.md R105 to R107). -/
theorem exec_cfgw_cases {sel : Nibble} {v : Byte} {s t : State} (h : exec (.cfgw sel v) s = .next t) :
    (sel = 0 ∧ t = { s with repeatCount := v }) ∨ (sel = 1 ∧ t = { s with dlyRst := v }) ∨
    (sel = 2 ∧ t = { s with dlyBit := v }) ∨ (sel = 3 ∧ t = s.statusWrite v) ∨
    (4 ≤ sel.toNat ∧ t = s.raiseError .badReg) := by
  obtain ⟨rfl, -⟩ | ⟨rfl, -⟩ | ⟨rfl, -⟩ | ⟨rfl, -⟩ | ⟨rfl, -⟩ | ⟨rfl, -⟩ | ⟨hsel, hc⟩ := configReg_cases sel
  · cases h; exact .inl ⟨rfl, rfl⟩
  · cases h; exact .inr (.inl ⟨rfl, rfl⟩)
  · cases h; exact .inr (.inr (.inl ⟨rfl, rfl⟩))
  · cases h; exact .inr (.inr (.inr (.inl ⟨rfl, rfl⟩)))
  · cases h; exact .inr (.inr (.inr (.inr ⟨by decide, rfl⟩)))
  · cases h; exact .inr (.inr (.inr (.inr ⟨by decide, rfl⟩)))
  · simp only [exec, execCfgw, hc] at h
    cases h; exact .inr (.inr (.inr (.inr ⟨by omega, rfl⟩)))

/-- A CFGW of an unimplemented or read-only select is rejected (43_config.md R107). -/
theorem exec_cfgw_of_four_le {sel : Nibble} (hsel : 4 ≤ sel.toNat) (v : Byte) (s : State) :
    exec (.cfgw sel v) s = .next (s.raiseError .badReg) := by
  obtain ⟨t, ht⟩ := exec_next (.cfgw sel v) s
  rw [ht]
  obtain ⟨rfl, -⟩ | ⟨rfl, -⟩ | ⟨rfl, -⟩ | ⟨rfl, -⟩ | ⟨-, rfl⟩ := exec_cfgw_cases ht
  · exact absurd hsel (by decide)
  · exact absurd hsel (by decide)
  · exact absurd hsel (by decide)
  · exact absurd hsel (by decide)
  · rfl

/-! ### Commands, the error record and the response (10_state.md R18, R26, R27; 60_exceptions.md R114) -/

/-- A rejected command raises its error, and if it is an RD or a CFGR gives the error response; it does nothing else
(60_exceptions.md R114). -/
theorem exec_of_rejection {i : Instr} {c : ErrorCause} (h : rejection i = some c) (s : State) :
    exec i s = .next (if responds i then s.rejectRead c else s.raiseError c) := by
  cases i with
  | nop | fill | emit | refresh => simp [rejection] at h
  | wr row col v =>
    obtain ⟨hout, rfl⟩ : inRange row col = false ∧ .range = c := by simpa [rejection] using h
    simp [exec, execWr, hout, responds]
  | rd row col =>
    obtain ⟨hout, rfl⟩ : inRange row col = false ∧ .range = c := by simpa [rejection] using h
    simp [exec, execRd, hout, responds]
  | cfgw sel v =>
    obtain ⟨hsel, rfl⟩ : 4 ≤ sel.toNat ∧ .badReg = c := by simpa [rejection] using h
    exact exec_cfgw_of_four_le hsel v s
  | cfgr sel =>
    obtain ⟨hsel, rfl⟩ : 6 ≤ sel.toNat ∧ .badReg = c := by simpa [rejection] using h
    simp [exec, execCfgr, configReg_eq_none_iff.mpr hsel, responds]
  | illegal =>
    obtain rfl : .illegal = c := by simpa [rejection] using h
    rfl

/-- A rejected command sets ERR and keeps the first error's code (10_state.md R26, R27). -/
theorem exec_errorRecord_of_rejection {i : Instr} {c : ErrorCause} {s t : State} (h : exec i s = .next t)
    (hrej : rejection i = some c) : t.err = true ∧ t.errCode = if s.err then s.errCode else c.code := by
  rw [exec_of_rejection hrej] at h
  cases h
  rw [rejectRead_eq, raiseError_eq]
  cases responds i <;> exact ⟨rfl, rfl⟩

/-- A command that is not rejected clears the error record if it is the clearing CFGW STATUS, and else leaves it. -/
theorem exec_errorRecord_of_not_rejected {i : Instr} {s t : State} (h : exec i s = .next t) (hrej : rejection i = none) :
    t.err = (if clearsError i then false else s.err) ∧ t.errCode = if clearsError i then 0b00 else s.errCode := by
  cases i with
  | nop | fill | emit => cases h; exact ⟨rfl, rfl⟩
  | illegal => cases hrej
  | wr row col v =>
    have hin : inRange row col = true := by simpa [rejection] using hrej
    rw [exec_wr_of_inRange hin] at h
    cases h; exact ⟨rfl, rfl⟩
  | rd row col =>
    have hin : inRange row col = true := by simpa [rejection] using hrej
    rw [exec_rd_of_inRange hin] at h
    cases h; exact ⟨rfl, rfl⟩
  | refresh =>
    simp only [exec, execRefresh] at h
    split at h <;> (cases h; exact ⟨rfl, rfl⟩)
  | cfgw sel v =>
    have hsel : sel.toNat < 4 := by simpa [rejection] using hrej
    obtain ⟨rfl, rfl⟩ | ⟨rfl, rfl⟩ | ⟨rfl, rfl⟩ | ⟨rfl, rfl⟩ | ⟨hge, -⟩ := exec_cfgw_cases h
    · exact ⟨rfl, rfl⟩
    · exact ⟨rfl, rfl⟩
    · exact ⟨rfl, rfl⟩
    · exact ⟨statusWrite_err s v, statusWrite_errCode s v⟩
    · omega
  | cfgr sel =>
    cases hc : configReg sel with
    | some r =>
      rw [exec_cfgr_of_some hc] at h
      cases h; exact ⟨rfl, rfl⟩
    | none =>
      have hlt : sel.toNat < 6 := by simpa [rejection] using hrej
      exact absurd (configReg_eq_none_iff.mp hc) (by omega)

/-- A command other than an RD and a CFGR leaves the response elements alone (10_state.md R18). -/
theorem exec_response_of_not_responds {i : Instr} {s t : State} (h : exec i s = .next t) (hno : responds i = false) :
    t.rspValid = s.rspValid ∧ t.rspErr = s.rspErr ∧ t.rspData = s.rspData := by
  cases i with
  | nop | fill | emit => cases h; exact ⟨rfl, rfl, rfl⟩
  | rd | cfgr => cases hno
  | illegal => cases h; simp
  | wr row col v =>
    simp only [exec, execWr] at h
    split at h <;> (cases h; simp)
  | refresh =>
    simp only [exec, execRefresh] at h
    split at h <;> (cases h; exact ⟨rfl, rfl, rfl⟩)
  | cfgw sel v =>
    obtain ⟨-, rfl⟩ | ⟨-, rfl⟩ | ⟨-, rfl⟩ | ⟨-, rfl⟩ | ⟨-, rfl⟩ := exec_cfgw_cases h
    · exact ⟨rfl, rfl, rfl⟩
    · exact ⟨rfl, rfl, rfl⟩
    · exact ⟨rfl, rfl, rfl⟩
    · exact statusWrite_response s v
    · simp

/-- The response of an RD (40_framebuffer.md R73, R76). -/
theorem exec_rd_response {r c : Nibble} {s t : State} (h : exec (.rd r c) s = .next t) :
    t.rspValid = true ∧ t.rspErr = !inRange r c ∧ t.rspData = if inRange r c then s.fb.read (addr r c) else 0x00 := by
  cases hin : inRange r c with
  | true =>
    rw [exec_rd_of_inRange hin] at h
    cases h; exact ⟨rfl, rfl, rfl⟩
  | false =>
    rw [exec_of_rejection (c := .range) (by simp [rejection, hin])] at h
    cases h; exact ⟨rfl, rfl, rfl⟩

/-- The response of a CFGR (43_config.md R108). -/
theorem exec_cfgr_response {sel : Nibble} {s t : State} (h : exec (.cfgr sel) s = .next t) :
    t.rspValid = true ∧ t.rspErr = decide (6 ≤ sel.toNat) ∧ t.rspData = ((configReg sel).map s.configRead).getD 0x00 := by
  cases hc : configReg sel with
  | some r =>
    have hlt : ¬ 6 ≤ sel.toNat := by simp [← configReg_eq_none_iff, hc]
    rw [exec_cfgr_of_some hc] at h
    cases h; exact ⟨rfl, (decide_eq_false hlt).symm, rfl⟩
  | none =>
    have hge : 6 ≤ sel.toNat := configReg_eq_none_iff.mp hc
    rw [exec_of_rejection (c := .badReg) (by simp [rejection, hge])] at h
    cases h; exact ⟨rfl, (decide_eq_true hge).symm, rfl⟩

theorem responds_iff {i : Instr} : responds i = true ↔ (∃ r c, i = .rd r c) ∨ ∃ sel, i = .cfgr sel := by
  cases i <;> simp [responds]

theorem exec_rspValid {i : Instr} {s t : State} (h : exec i s = .next t) : t.rspValid = (responds i || s.rspValid) := by
  cases hres : responds i with
  | false => exact (exec_response_of_not_responds h hres).1
  | true =>
    obtain ⟨r, c, rfl⟩ | ⟨sel, rfl⟩ := responds_iff.mp hres
    · exact (exec_rd_response h).1
    · exact (exec_cfgr_response h).1

/-- A step gives a response exactly where it accepts a command that responds (10_state.md R18). -/
theorem step_rspValid_iff {s t : State} (h : step s = .next t) :
    t.rspValid = true ↔ ∃ i, accepted s.nextInput s = some i ∧ responds i = true := by
  obtain ⟨-, ha, rfl⟩ | ⟨i, -, ha, hx⟩ | ⟨hr, ha, -⟩ := step_cases h
  · simp [ha, State.applyReset, State.reset]
  · simp [ha, exec_rspValid hx]
  · obtain ⟨-, -, hvalid, -⟩ := step_records_of_not_accepted h hr ha
    simp [ha, hvalid]

theorem configRead_edgeStart (r : ConfigReg) (s : State) : s.popInput.edgeDefaults.configRead r = s.configRead r := by
  cases r <;> rfl

/-! ### The obligations of 10_state.md -/

/-- Settles O11: by the three cases of `cmd_ready` and `cmd_valid`. -/
theorem unreadyCommandIsNotTaken : Obligations.UnreadyCommandIsNotTaken := by
  unfold Obligations.UnreadyCommandIsNotTaken
  refine ⟨fun s inp hready hv => ?_, fun s inp hready hv => ?_, fun s rst v v' w w' hready => ?_⟩
  · obtain ⟨hm, hr⟩ := cmdReady_iff.mp hready
    exact edge_idle_accept hr hm hv
  · obtain ⟨hm, hr⟩ := cmdReady_iff.mp hready
    exact edge_idle_quiet hr hm hv
  · exact edge_congr_of_not_ready rfl hready

/-- Settles O18: `rsp_valid` by the kind of step, the values by the accepted command. -/
theorem onlyReadsRespond : Obligations.OnlyReadsRespond := by
  unfold Obligations.OnlyReadsRespond
  intro s t h
  refine ⟨?_, fun r c ha => ?_, fun sel ha => ?_, fun hvalid hr => ?_⟩
  · simpa only [responds_iff] using step_rspValid_iff h
  · obtain ⟨-, herr, hdata⟩ := exec_rd_response (exec_of_accepted h ha)
    exact ⟨herr, hdata⟩
  · obtain ⟨-, herr, hdata⟩ := exec_cfgr_response (exec_of_accepted h ha)
    refine ⟨herr, hdata.trans ?_⟩
    cases configReg sel with
    | some r => exact configRead_edgeStart r s
    | none => rfl
  · cases ha : accepted s.nextInput s with
    | none =>
      obtain ⟨-, -, -, herr, hdata⟩ := step_records_of_not_accepted h hr ha
      exact ⟨herr, hdata⟩
    | some i =>
      have hno : responds i = false := by
        simpa [ha, hvalid] using step_rspValid_iff h
      obtain ⟨-, herr, hdata⟩ := exec_response_of_not_responds (exec_of_accepted h ha) hno
      exact ⟨herr, hdata⟩

/-- Settles O19: by the cause of the change, reset, a rejected command, the clearing CFGW, and no cause at all. -/
theorem errorRecordKeepsTheFirstError : Obligations.ErrorRecordKeepsTheFirstError := by
  unfold Obligations.ErrorRecordKeepsTheFirstError
  intro s t h
  refine ⟨fun hr => ?_, fun i c ha hrej => ?_, fun i ha hrej hclear => ?_, fun i ha hrej hclear => ?_, fun hr ha => ?_,
    fun rst => rfl⟩
  · obtain rfl : s.popInput.applyReset = t := by simpa [step, edge_rst hr] using h
    exact ⟨rfl, rfl⟩
  · obtain ⟨herr, hcode⟩ := exec_errorRecord_of_rejection (exec_of_accepted h ha) hrej
    exact ⟨herr, hcode⟩
  · simpa [hclear] using exec_errorRecord_of_not_rejected (exec_of_accepted h ha) hrej
  · simpa [hclear] using exec_errorRecord_of_not_rejected (exec_of_accepted h ha) hrej
  · obtain ⟨herr, hcode, -⟩ := step_records_of_not_accepted h hr ha
    exact ⟨herr, hcode⟩

/-- Settles O9: a step is the edge of the list's first inputs, and an edge goes by `rst`, MODE and `cmd_valid`. -/
theorem stepFollowsResetModeAndValid : Obligations.StepFollowsResetModeAndValid := by
  unfold Obligations.StepFollowsResetModeAndValid
  intro s inp rest hi
  rw [step_eq_edge hi]
  exact ⟨fun hr => edge_rst hr _, fun hr hm hv => edge_idle_accept hr hm hv, fun hr hm hv => edge_idle_quiet hr hm hv,
    fun hr hm => edge_fill hr hm, fun hr hm => edge_ser hr hm⟩

/-- Settles O16: both spellings of MODE = IDLE agree in each mode. -/
theorem outputsAreFunctionsOfState : Obligations.OutputsAreFunctionsOfState := by
  unfold Obligations.OutputsAreFunctionsOfState
  intro s rst
  refine ⟨?_, fun hready => ?_⟩
  · cases hm : s.mode <;> simp [State.outputs, State.cmdReady, State.busy, hm]
  · obtain ⟨hm, -⟩ := cmdReady_iff.mp hready
    simp [State.outputs, State.busy, hm]

end Sys2Proof.Machine

/-! ## The array's ports and the cell addresses (20_memory.md) -/

namespace Sys2Proof.Machine

/-! ### One port's write at an edge (20_memory.md R49) -/

/-- A port's edge keeps the canonical form. -/
theorem PortReq.commit_wf {m : Memory} (h : m.wf = true) (p : PortReq) : (p.commit m).wf = true := by
  unfold PortReq.commit
  split
  · exact Memory.write_wf h p.addr p.wdata
  · exact h

/-- A port that writes leaves its value in its cell. -/
theorem PortReq.commit_read_addr {m : Memory} (h : m.wf = true) {p : PortReq} (hen : p.en = true) (hwe : p.we = true) :
    (p.commit m).read p.addr = p.wdata := by
  rw [PortReq.commit, hen, hwe]
  exact Memory.read_write_eq h p.addr p.wdata

/-- A port leaves every cell that it does not write. -/
theorem PortReq.commit_read_of_not_written (m : Memory) {p : PortReq} {a : CellAddr} (h : p.en = true → p.we = true → p.addr ≠ a) :
    (p.commit m).read a = m.read a := by
  unfold PortReq.commit
  split
  next hw =>
    obtain ⟨hen, hwe⟩ := Bool.and_eq_true_iff.mp hw
    exact Memory.read_write_ne m p.wdata (h hen hwe).symm
  · rfl

/-- In range, a cell's address is its row times eight plus its column (20_memory.md R44). -/
theorem addr_toNat {r c : Nibble} (h : inRange r c = true) : (addr r c).toNat = 8 * r.toNat + c.toNat := by
  obtain ⟨hr, hc⟩ := inRange_iff.mp h
  rw [addr, cellAddr_toNat, lowIndex_toNat hr, lowIndex_toNat hc]

/-! ### The obligations of 20_memory.md -/

/-- Settles O24: port B's write comes first and port A's over it, so port A's value stands where both write one cell. -/
theorem arrayPortsReadOldWriteNewAWins : Obligations.ArrayPortsReadOldWriteNewAWins := by
  unfold Obligations.ArrayPortsReadOldWriteNewAWins
  intro m p q hm
  refine ⟨fun hen hwe => ?_, fun hen hwe => ?_, fun hen hwe hother => ?_, fun a hp hq => ?_⟩
  · simp [PortReq.rdata, hen, hwe]
  · exact PortReq.commit_read_addr (PortReq.commit_wf hm q) hen hwe
  · calc (arrayEdge m p q).read q.addr
      _ = (q.commit m).read q.addr := PortReq.commit_read_of_not_written _ hother
      _ = q.wdata := PortReq.commit_read_addr hm hen hwe
  · calc (arrayEdge m p q).read a
      _ = (q.commit m).read a := PortReq.commit_read_of_not_written _ hp
      _ = m.read a := PortReq.commit_read_of_not_written m hq

/-- Settles O27: the columns are below 8, so row and column are the address's quotient and remainder by 8. -/
theorem cellAddressIsRowMajor : Obligations.CellAddressIsRowMajor := by
  unfold Obligations.CellAddressIsRowMajor
  refine ⟨fun r c => inRange_iff, fun r c => addr_toNat, fun r c r' c' h h' heq => ?_⟩
  have hsum : 8 * r.toNat + c.toNat = 8 * r'.toNat + c'.toNat := by
    rw [← addr_toNat h, ← addr_toNat h', heq]
  obtain ⟨-, hc⟩ := inRange_iff.mp h
  obtain ⟨-, hc'⟩ := inRange_iff.mp h'
  exact ⟨BitVec.eq_of_toNat_eq (by omega), BitVec.eq_of_toNat_eq (by omega)⟩

end Sys2Proof.Machine

/-! ## The encoding (30_encoding.md) -/

namespace Sys2Proof

/-! ### The decoder, one equation per row of the opcode table (30_encoding.md R66, R68) -/

/-- The eight opcodes of the table and the reserved ones. -/
theorem opcode_cases (op : Nibble) :
    op = 0 ∨ op = 1 ∨ op = 2 ∨ op = 3 ∨ op = 4 ∨ op = 5 ∨ op = 6 ∨ op = 7 ∨ 8 ≤ op.toNat := by
  revert op; decide

section
variable {w : Word}

theorem decode_nop (h : opField w = 0) : decode w = .nop := by simp [decode, h]

theorem decode_wr (h : opField w = 1) : decode w = .wr (raField w) (cbField w) (valueField w) := by simp [decode, h]

theorem decode_rd (h : opField w = 2) : decode w = .rd (raField w) (cbField w) := by simp [decode, h]

theorem decode_fill (h : opField w = 3) : decode w = .fill (valueField w) := by simp [decode, h]

theorem decode_emit (h : opField w = 4) : decode w = .emit (valueField w) := by simp [decode, h]

theorem decode_refresh (h : opField w = 5) : decode w = .refresh := by simp [decode, h]

theorem decode_cfgw (h : opField w = 6) : decode w = .cfgw (raField w) (valueField w) := by simp [decode, h]

theorem decode_cfgr (h : opField w = 7) : decode w = .cfgr (raField w) := by simp [decode, h]

theorem decode_illegal (h : 8 ≤ (opField w).toNat) : decode w = .illegal := by
  unfold decode
  split
  case h_9 => rfl
  all_goals omega

end

/-- No word other than those with OP 0x8 to 0xF is illegal (30_encoding.md R68). -/
theorem decode_eq_illegal_iff {w : Word} : decode w = .illegal ↔ 8 ≤ (opField w).toNat := by
  refine ⟨fun hill => ?_, decode_illegal⟩
  obtain h | h | h | h | h | h | h | h | h := opcode_cases (opField w)
  · simp [decode_nop h] at hill
  · simp [decode_wr h] at hill
  · simp [decode_rd h] at hill
  · simp [decode_fill h] at hill
  · simp [decode_emit h] at hill
  · simp [decode_refresh h] at hill
  · simp [decode_cfgw h] at hill
  · simp [decode_cfgr h] at hill
  · exact h

/-- The command depends on OP and on the fields that OP's row uses, and on nothing else (30_encoding.md R67). -/
theorem decode_congr {w w' : Word} (hop : opField w = opField w')
    (hra : opField w = 1 ∨ opField w = 2 ∨ opField w = 6 ∨ opField w = 7 → raField w = raField w')
    (hcb : opField w = 1 ∨ opField w = 2 → cbField w = cbField w')
    (hv : opField w = 1 ∨ opField w = 3 ∨ opField w = 4 ∨ opField w = 6 → valueField w = valueField w') :
    decode w = decode w' := by
  obtain h | h | h | h | h | h | h | h | h := opcode_cases (opField w)
  · rw [decode_nop h, decode_nop (hop ▸ h)]
  · rw [decode_wr h, decode_wr (hop ▸ h), hra (by simp [h]), hcb (by simp [h]), hv (by simp [h])]
  · rw [decode_rd h, decode_rd (hop ▸ h), hra (by simp [h]), hcb (by simp [h])]
  · rw [decode_fill h, decode_fill (hop ▸ h), hv (by simp [h])]
  · rw [decode_emit h, decode_emit (hop ▸ h), hv (by simp [h])]
  · rw [decode_refresh h, decode_refresh (hop ▸ h)]
  · rw [decode_cfgw h, decode_cfgw (hop ▸ h), hra (by simp [h]), hv (by simp [h])]
  · rw [decode_cfgr h, decode_cfgr (hop ▸ h), hra (by simp [h])]
  · rw [decode_illegal h, decode_illegal (hop ▸ h)]

/-! ### The value operand and the word as a number (30_encoding.md R60, R65) -/

/-- `trunc_8` of DATA is the low byte of the word (30_encoding.md R65). -/
theorem valueField_eq_low_byte (w : Word) : valueField w = w.extractLsb' 0 8 := by
  refine BitVec.eq_of_getLsbD_eq fun k _ => ?_
  rw [getLsbD_valueField, BitVec.getLsbD_extractLsb', Nat.zero_add]

/-- CMD32 as a number: each field shifted to its lowest bit (30_encoding.md R60). -/
theorem cmdWord_toNat (op ra cb : Nibble) (d : Data) :
    (cmdWord op ra cb d).toNat = (op.toNat <<< 28) ||| (ra.toNat <<< 24) ||| (cb.toNat <<< 20) ||| d.toNat := by
  have happ : (cmdWord op ra cb d).toNat =
      (((op.toNat <<< 4 ||| ra.toNat) <<< 4 ||| cb.toNat) <<< 4 ||| 0) <<< 16 ||| d.toNat := by
    simp only [cmdWord, BitVec.toNat_append]; rfl
  rw [happ]
  simp only [Nat.or_zero, Nat.shiftLeft_or_distrib, ← Nat.shiftLeft_add]

/-- The word of numbers that fit their fields, as 30_encoding.md R71 writes it. -/
theorem cmdWord_ofNat {op ra cb v : Nat} (hop : op ≤ 15) (hra : ra ≤ 15) (hcb : cb ≤ 15) (hv : v ≤ 0xFFFF) :
    cmdWord (BitVec.ofNat 4 op) (BitVec.ofNat 4 ra) (BitVec.ofNat 4 cb) (BitVec.ofNat 16 v) =
      BitVec.ofNat 32 ((op <<< 28) ||| (ra <<< 24) ||| (cb <<< 20) ||| v) := by
  have hword := cmdWord_toNat (BitVec.ofNat 4 op) (BitVec.ofNat 4 ra) (BitVec.ofNat 4 cb) (BitVec.ofNat 16 v)
  rw [BitVec.toNat_ofNat, BitVec.toNat_ofNat, BitVec.toNat_ofNat, BitVec.toNat_ofNat, Nat.mod_eq_of_lt (by omega),
    Nat.mod_eq_of_lt (by omega), Nat.mod_eq_of_lt (by omega), Nat.mod_eq_of_lt (by omega)] at hword
  rw [← hword, BitVec.ofNat_toNat, BitVec.setWidth_eq]

/-! ### The assembler (30_encoding.md R71, R72) -/

/-- A well-formed line assembles to the words of its commands in order. -/
theorem assemble_of_wellFormed {l : AsmLine} (h : l.wellFormed = true) : l.assemble = some (l.expand.map AsmCmd.word) :=
  if_pos h

theorem fitsNibble_iff {n : Nat} : fitsNibble n = true ↔ n ≤ 15 := decide_eq_true_iff

theorem fitsData_iff {n : Nat} : fitsData n = true ↔ n ≤ 0xFFFF := decide_eq_true_iff

theorem word_wr {r c v : Nat} (hr : r ≤ 15) (hc : c ≤ 15) (hv : v ≤ 0xFFFF) :
    (AsmCmd.wr r c v).word = BitVec.ofNat 32 ((0x1 <<< 28) ||| (r <<< 24) ||| (c <<< 20) ||| v) :=
  cmdWord_ofNat (by decide) hr hc hv

theorem word_cfgw {s v : Nat} (hs : s ≤ 15) (hv : v ≤ 0xFFFF) :
    (AsmCmd.cfgw s v).word = BitVec.ofNat 32 ((0x6 <<< 28) ||| (s <<< 24) ||| v) := by
  have hword := cmdWord_ofNat (op := 6) (cb := 0) (by decide) hs (by decide) hv
  rwa [Nat.zero_shiftLeft, Nat.or_zero] at hword

end Sys2Proof

namespace Sys2Proof.Machine

/-- Words that decode to one command do the same thing at an edge, in every MODE (10_state.md R36, R37). -/
theorem edge_offer_congr {w w' : Word} (h : decode w = decode w') (s : State) : edge (.offer w) s = edge (.offer w') s := by
  cases hm : s.mode with
  | idle => rw [edge_idle_accept rfl hm rfl, edge_idle_accept rfl hm rfl]; exact congrArg (exec · s.edgeDefaults) h
  | fill => rw [edge_fill rfl hm, edge_fill rfl hm]
  | ser => rw [edge_ser rfl hm, edge_ser rfl hm]

/-- A reserved opcode raises ILLEGAL, with no other effect and no response (30_encoding.md R68). -/
theorem exec_illegal (s : State) : exec .illegal s = .next (s.raiseError .illegal) := rfl

/-! ### The obligations of 30_encoding.md -/

/-- Settles O4: the decoder reads OP and the fields of its row, and an edge sees the word through the decoder alone. -/
theorem ignoredFieldsChangeNothing : Obligations.IgnoredFieldsChangeNothing := by
  unfold Obligations.IgnoredFieldsChangeNothing
  intro w w' hop hra hcb hv
  have hdec : decode w = decode w' := decode_congr hop hra hcb hv
  exact ⟨hdec, edge_offer_congr hdec⟩

/-- Settles O5: `trunc_8(DATA)` is the low byte, and each of the four rows takes its value from it. -/
theorem valueOperandIsTheLowByte : Obligations.ValueOperandIsTheLowByte := by
  unfold Obligations.ValueOperandIsTheLowByte
  intro w
  rw [← valueField_eq_low_byte]
  exact ⟨rfl, decode_wr, decode_fill, decode_emit, decode_cfgw⟩

/-- Settles O7: only the reserved rows decode to the reserved command, and it does the error entry and nothing else. -/
theorem reservedOpcodesRaiseIllegal : Obligations.ReservedOpcodesRaiseIllegal := by
  unfold Obligations.ReservedOpcodesRaiseIllegal
  refine ⟨fun w => decode_eq_illegal_iff, fun s => ?_⟩
  rw [exec_illegal, raiseError_eq]
  rfl

/-- Settles O58: each line fits its fields, and the words of its WR or CFGW commands are those of R71. -/
theorem pseudoInstructionsExpandInOrder : Obligations.PseudoInstructionsExpandInOrder := by
  unfold Obligations.PseudoInstructionsExpandInOrder
  refine ⟨rfl, rfl, fun n hn => ?_, fun a b ha hb => ?_, fun r c v hr hc hv => ?_⟩
  · have hwf : (AsmLine.setRepeat n).wellFormed = true := fitsData_iff.mpr hn
    rw [assemble_of_wellFormed hwf]
    simp [AsmLine.expand, word_cfgw (s := 0) (by decide) hn]
  · have hwf : (AsmLine.setDelay a b).wellFormed = true := by
      simp [AsmLine.wellFormed, fitsData_iff, ha, hb]
    rw [assemble_of_wellFormed hwf]
    simp [AsmLine.expand, word_cfgw (s := 1) (by decide) ha, word_cfgw (s := 2) (by decide) hb]
  · have hwf : (AsmLine.set r c v).wellFormed = true := by
      simp [AsmLine.wellFormed, fitsNibble_iff, fitsData_iff, hr, hc, hv]
    rw [assemble_of_wellFormed hwf]
    simp [AsmLine.expand, word_wr hr hc hv]

end Sys2Proof.Machine

/-! ## The framebuffer commands (40_framebuffer.md) -/

namespace Sys2Proof.Machine

/-! ### WR and RD out of range (40_framebuffer.md R73) -/

theorem inRange_eq_false_iff {r c : Nibble} : inRange r c = false ↔ 8 ≤ r.toNat ∨ 8 ≤ c.toNat := by
  rw [← Bool.not_eq_true, inRange_iff]
  omega

section
variable {r c : Nibble} (h : 8 ≤ r.toNat ∨ 8 ≤ c.toNat)
include h

/-- WR of a row or a column from 8 on writes the error record alone. -/
theorem exec_wr_of_outOfRange (v : Byte) (s : State) :
    exec (.wr r c v) s = .next { s with err := true, errCode := if s.err then s.errCode else 0b01 } := by
  rw [exec_of_rejection (c := .range) (by simp [rejection, inRange_eq_false_iff.mpr h])]
  exact congrArg _ (raiseError_eq s .range)

/-- RD of a row or a column from 8 on writes the error record and gives the error response. -/
theorem exec_rd_of_outOfRange (s : State) :
    exec (.rd r c) s = .next { s with err := true, errCode := if s.err then s.errCode else 0b01,
                                      rspValid := true, rspErr := true, rspData := 0x00 } := by
  rw [exec_of_rejection (c := .range) (by simp [rejection, inRange_eq_false_iff.mpr h])]
  exact congrArg _ (rejectRead_eq s .range)

end

/-! ### The edges of a FILL (40_framebuffer.md R77, R78) -/

/-- The edge with MODE = FILL as one update of the state (R78). -/
theorem edge_fill_eq {inp : EdgeInput} {s : State} (hr : inp.rst = false) (hm : s.mode = .fill) :
    edge inp s = .next { s with fb := s.fb.write s.fcnt s.fval, portWe := false, rspValid := false,
                                fcnt := if s.fcnt = 63 then s.fcnt else s.fcnt + 1,
                                mode := if s.fcnt = 63 then .idle else .fill } := by
  have hlast : s.fcnt.toNat = 63 ↔ s.fcnt = 63 := BitVec.toNat_inj (y := 63#6)
  rw [edge_fill hr hm, fillStep_eq]
  simp only [State.edgeDefaults, hlast, hm]

/-- The array after a FILL of `v` has written its first `n` cells, the lowest address first. -/
def Memory.fillBelow (v : Byte) (m : Memory) : Nat → Memory
  | 0 => m
  | n + 1 => (Memory.fillBelow v m n).write (BitVec.ofNat 6 n) v

theorem Memory.fillBelow_wf {m : Memory} (h : m.wf = true) (v : Byte) (n : Nat) : (Memory.fillBelow v m n).wf = true := by
  induction n with
  | zero => exact h
  | succ n ih => exact Memory.write_wf ih _ v

/-- The cells below `n` read the FILL's value, the others as before it. -/
theorem Memory.read_fillBelow {m : Memory} (h : m.wf = true) (v : Byte) {n : Nat} (hn : n ≤ 64) (a : CellAddr) :
    (Memory.fillBelow v m n).read a = if a.toNat < n then v else m.read a := by
  induction n with
  | zero => rfl
  | succ n ih =>
    have hcell : (BitVec.ofNat 6 n).toNat = n := by rw [BitVec.toNat_ofNat]; exact Nat.mod_eq_of_lt hn
    by_cases ha : a = BitVec.ofNat 6 n
    · have hlt : a.toNat < n + 1 := by rw [ha, hcell]; omega
      rw [if_pos hlt, ha]
      exact Memory.read_write_eq (Memory.fillBelow_wf h v n) _ v
    · have hne : a.toNat ≠ n := fun e => ha (BitVec.eq_of_toNat_eq (e.trans hcell.symm))
      have hlt : a.toNat < n + 1 ↔ a.toNat < n := by omega
      rw [Memory.fillBelow, Memory.read_write_ne _ v ha, ih (by omega)]
      simp only [hlt]

/-- The state in which `s` has accepted a FILL of `v` and the FILL has written its first `n` cells, the next one being cell `n`. -/
def State.duringFill (v : Byte) (n : Nat) (s : State) : State :=
  { s with fb := Memory.fillBelow v s.fb n, portWe := false, rspValid := false, mode := .fill, fval := v,
           fcnt := BitVec.ofNat 6 n, inputs := s.inputs.drop (n + 1) }

/-- The state in which a FILL of `v` accepted in `s` has written all 64 cells. -/
def State.afterFill (v : Byte) (s : State) : State :=
  { s.duringFill v 64 with mode := .idle, fcnt := 63 }

/-- A FILL leaves its value in every cell. -/
theorem State.read_afterFill {s : State} (hwf : s.fb.wf = true) (v : Byte) (a : CellAddr) : (s.afterFill v).fb.read a = v := by
  have hfb : (s.afterFill v).fb = Memory.fillBelow v s.fb 64 := by rw [State.afterFill, State.duringFill]
  rw [hfb, Memory.read_fillBelow hwf v (Nat.le_refl 64), if_pos a.isLt]

section
variable {s : State} {v : Byte}

theorem step_fill_accepted {w : Word} {rest : List EdgeInput} (hm : s.mode = .idle) (hi : s.inputs = .offer w :: rest)
    (hw : decode w = .fill v) : step s = .next (s.duringFill v 0) := by
  rw [step_accept hm hi, hw]
  simp [exec, execFill, State.duringFill, Memory.fillBelow, hi]

/-- A FILL's edge writes cell FCNT = n; only cell 63 ends it. -/
theorem step_duringFill {n : Nat} (hn : n < 64) (hr : noReset (n + 2) s = true) :
    step (s.duringFill v n) = .next (if n = 63 then s.afterFill v else s.duringFill v (n + 1)) := by
  have hrst : (s.duringFill v n).nextInput.rst = false :=
    (noReset_next (n := 0) (noReset_drop (m := n + 1) (t := s.duringFill v n) hr rfl)).1
  have hlast : BitVec.ofNat 6 n = 63#6 ↔ n = 63 := by
    rw [← BitVec.toNat_inj, BitVec.toNat_ofNat, Nat.mod_eq_of_lt hn]; rfl
  rw [step, edge_fill_eq hrst rfl]
  by_cases h63 : n = 63
  · subst h63
    simp [State.duringFill, State.afterFill, State.popInput, Memory.fillBelow]
  · simp [State.duringFill, State.popInput, Memory.fillBelow, hlast, h63, BitVec.ofNat_add]

/-- The first `n` of a FILL's 64 edges write the cells below `n`, with no port write and no response. -/
theorem fill_stretch (e : Nat) {n : Nat} (hn : n < 64) (hr : noReset (n + 1) s = true) :
    Stretch .fill e n (s.duringFill v 0) (s.duringFill v n) [] := by
  induction n with
  | zero => exact .nil .fill e _
  | succ n ih =>
    have hstep := step_duringFill (v := v) (by omega : n < 64) hr
    rw [if_neg (by omega)] at hstep
    exact (ih (by omega) (noReset_le hr (by omega))).append (.one (e + n) hstep rfl rfl)

/-- All 64 edges of a FILL: MODE is FILL before each of them and IDLE after the last (R78). -/
theorem fill_complete_stretch (e : Nat) (hr : noReset 65 s = true) :
    Stretch .fill e 64 (s.duringFill v 0) (s.afterFill v) [] := by
  have hlast : step (s.duringFill v 63) = .next (s.afterFill v) := step_duringFill (by decide) hr
  exact (fill_stretch e (by decide) (noReset_le hr (by decide))).append (.one (e + 63) hlast rfl rfl)

end

/-! ### The obligations of 40_framebuffer.md -/

/-- Settles O36: the accepting edge, then the stretch of the first n of the 64 FILL edges, and of all of them. -/
theorem fillFillsAllCellsIn64Edges : Obligations.FillFillsAllCellsIn64Edges := by
  unfold Obligations.FillFillsAllCellsIn64Edges
  intro s w v rest e hm hwf hi hw hr
  have haccept : step s = .next (s.duringFill v 0) := step_fill_accepted hm hi hw
  have hall : Stretch .fill (e + 1) 64 (s.duringFill v 0) (s.afterFill v) [] := fill_complete_stretch (e + 1) hr
  refine ⟨⟨s.afterFill v, ?_, rfl, State.read_afterFill hwf v, ?_⟩, fun n hn => ?_, ?_, ?_⟩
  · rw [run_succ 64 haccept, hall.reaches]
  · simp [State.afterFill, State.duringFill, hi]
  · have hpart := fill_stretch (v := v) (e + 1) hn (noReset_le hr (by omega))
    refine ⟨s.duringFill v n, ?_, rfl, ?_, Memory.read_fillBelow hwf v (by omega)⟩
    · rw [run_succ n haccept, hpart.reaches]
    · exact (BitVec.toNat_ofNat n 6).trans (Nat.mod_eq_of_lt hn)
  · rw [portWrites_succ e 64 haccept, hall.writes]; rfl
  · rw [responses_succ e 64 haccept, hall.silent]; rfl

/-- Settles O29: OP 0 decodes to NOP, which answers the state with the edge's defaults. -/
theorem nopChangesNothing : Obligations.NopChangesNothing := by
  unfold Obligations.NopChangesNothing
  refine ⟨fun s => rfl, fun s w hm hop => ?_⟩
  have hdec : decode (EdgeInput.offer w).cmdWord = .nop := decode_nop hop
  rw [edge_idle_accept rfl hm rfl, hdec]
  rfl

/-- Settles O30: in range by the rules of one array write, out of range by the rejection. -/
theorem wrStoresTheOneCell : Obligations.WrStoresTheOneCell := by
  unfold Obligations.WrStoresTheOneCell
  intro r c v s
  refine ⟨fun hout => exec_wr_of_outOfRange hout v s, fun hr hc hwf => ?_⟩
  exact ⟨s.hostWrite (addr r c) v, exec_wr_of_inRange (inRange_iff.mpr ⟨hr, hc⟩) v s, rfl, Memory.write_wf hwf _ v,
    Memory.read_write_eq hwf _ v, fun a ha => Memory.read_write_ne s.fb v ha⟩

/-- Settles O31: both commands are rejected with the cause RANGE. -/
theorem outOfRangeIsRejected : Obligations.OutOfRangeIsRejected := by
  unfold Obligations.OutOfRangeIsRejected
  intro r c v s hout
  exact ⟨exec_wr_of_outOfRange hout v s, exec_rd_of_outOfRange hout s⟩

/-- Settles O32: in range the response carries the cell, out of range RD is rejected. -/
theorem rdRespondsWithTheCell : Obligations.RdRespondsWithTheCell := by
  unfold Obligations.RdRespondsWithTheCell
  intro r c s
  exact ⟨fun hr hc => exec_rd_of_inRange (inRange_iff.mpr ⟨hr, hc⟩) s, fun hout => exec_rd_of_outOfRange hout s⟩

/-- Settles O35: the FILL edge as one update, whose one array write is that of cell FCNT. -/
theorem fillStepWritesOneCell : Obligations.FillStepWritesOneCell := by
  unfold Obligations.FillStepWritesOneCell
  intro s inp hr hm hwf
  exact ⟨_, edge_fill_eq hr hm, Memory.read_write_eq hwf s.fcnt s.fval, fun a ha => Memory.read_write_ne s.fb s.fval ha, rfl⟩

end Sys2Proof.Machine

/-! ## The serializer (41_serializer.md) -/

namespace Sys2Proof.Machine

/-! ### The four micro-steps of a pulse, an equation each (41_serializer.md R88) -/

section
variable {s : State}

theorem serStep_w0 (h : s.phase = .w0) :
    s.serStep = if s.dlyRst = 0 then { s.portWrite Config.pReset with phase := .w1 }
                else { s.portWrite Config.pReset with dcnt := s.dlyRst - 1, phase := .h0 } := by
  simp only [State.serStep, h, State.serW0]

theorem serStep_h0 (h : s.phase = .h0) :
    s.serStep = if s.dcnt = 0 then { s with phase := .w1 } else { s with dcnt := s.dcnt - 1 } := by
  simp only [State.serStep, h, State.serH0]

theorem serStep_w1 (h : s.phase = .w1) :
    s.serStep = if s.dlyBit = 0 then State.bitDone { s.portWrite (pattern (s.sh.getLsbD 0)) with sh := s.sh >>> 1 }
                else { s.portWrite (pattern (s.sh.getLsbD 0)) with sh := s.sh >>> 1, dcnt := s.dlyBit - 1, phase := .h1 } := by
  simp only [State.serStep, h, State.serW1]

theorem serStep_h1 (h : s.phase = .h1) :
    s.serStep = if s.dcnt = 0 then s.bitDone else { s with dcnt := s.dcnt - 1 } := by
  simp only [State.serStep, h, State.serH1]

/-! ### The end of a bit (41_serializer.md R89) -/

theorem bitDone_of_lt (h : s.b.toNat < 7) : s.bitDone = { s with b := s.b + 1, phase := .w0 } := if_pos h

theorem bitDone_of_last (h : s.b = 7) : s.bitDone = s.cellDone := if_neg (by simp [h])

theorem cellDone_emit (h : s.src = .emit) : s.cellDone = { s with mode := .idle } := by simp only [State.cellDone, h]

theorem cellDone_scan (h : s.src = .scan) : s.cellDone = s.scanAdvance := by simp only [State.cellDone, h]

end

/-! ### The bit pattern (41_serializer.md R87) -/

@[simp] theorem pattern_true : pattern true = Config.pOne := rfl

@[simp] theorem pattern_false : pattern false = Config.pZero := rfl

theorem pattern_injective : Function.Injective pattern :=
  Bool.injective_iff.mpr Config.pOne_ne_pZero.symm

/-! ### The obligations of 41_serializer.md on one edge -/

/-- Settles O39: an edge with MODE = SER is the serializer's step after the edge's defaults, and so the equation of its PHASE. -/
theorem serializerMicroSteps : Obligations.SerializerMicroSteps := by
  unfold Obligations.SerializerMicroSteps
  intro s inp hr hm
  rw [edge_ser hr hm]
  exact ⟨fun hp => congrArg _ (serStep_w0 (s := s.edgeDefaults) hp), fun hp => congrArg _ (serStep_h0 (s := s.edgeDefaults) hp),
    fun hp => congrArg _ (serStep_w1 (s := s.edgeDefaults) hp), fun hp => congrArg _ (serStep_h1 (s := s.edgeDefaults) hp)⟩

/-- Settles O40: by the bit index, and at the last bit by the source of the value. -/
theorem bitDoneGoesToTheNextBit : Obligations.BitDoneGoesToTheNextBit := by
  unfold Obligations.BitDoneGoesToTheNextBit
  intro s
  refine ⟨fun hb => ⟨bitDone_of_lt hb, nextIndex_toNat hb⟩, fun hb hsrc => ?_, fun hb hsrc => ?_⟩
  · rw [bitDone_of_last hb, cellDone_emit hsrc]
  · rw [bitDone_of_last hb, cellDone_scan hsrc]

/-- Settles O41: P_ONE and P_ZERO differ, so the pattern is injective. -/
theorem patternTellsTheBit : Obligations.PatternTellsTheBit := by
  unfold Obligations.PatternTellsTheBit
  exact ⟨Config.pOne_ne_pZero, pattern_true, pattern_false, fun _ _ h => pattern_injective h⟩

end Sys2Proof.Machine

/-! ## The scanner (42_scanner.md) -/

namespace Sys2Proof.Machine

theorem index_toNat_lt_seven_iff {x : Index} : x.toNat < 7 ↔ x ≠ 7 := by
  revert x; decide

/-! ### The next scan position, an equation per case of 42_scanner.md R98 -/

section
variable {s : State}

theorem scanNext_row (hj : s.j ≠ 7) : s.scanNext = some { i := s.i, k := s.k, j := s.j + 1 } :=
  if_pos (index_toNat_lt_seven_iff.mpr hj)

/-- After the last row the scan's position depends on K and I alone. -/
theorem scanNext_lastRow (hj : s.j = 7) :
    s.scanNext = if s.k.toNat + 1 < s.repeatCount.toNat then some { i := s.i, k := s.k + 1, j := 0 }
                 else if s.i.toNat < 7 then some { i := s.i + 1, k := 0, j := 0 } else none :=
  if_neg (by simp [hj])

theorem scanNext_pass (hj : s.j = 7) (hk : s.k.toNat + 1 < s.repeatCount.toNat) :
    s.scanNext = some { i := s.i, k := s.k + 1, j := 0 } := by
  rw [scanNext_lastRow hj, if_pos hk]

theorem scanNext_column (hj : s.j = 7) (hk : s.repeatCount.toNat ≤ s.k.toNat + 1) (hi : s.i ≠ 7) :
    s.scanNext = some { i := s.i + 1, k := 0, j := 0 } := by
  rw [scanNext_lastRow hj, if_neg (Nat.not_lt.mpr hk), if_pos (index_toNat_lt_seven_iff.mpr hi)]

theorem scanNext_last (hj : s.j = 7) (hk : s.repeatCount.toNat ≤ s.k.toNat + 1) (hi : s.i = 7) : s.scanNext = none := by
  rw [scanNext_lastRow hj, if_neg (Nat.not_lt.mpr hk), if_neg (by simp [hi])]

end

/-- Settles O45: the position after the current one in each case, and the advance of the scan to it. -/
theorem scanAdvanceOrder : Obligations.ScanAdvanceOrder := by
  unfold Obligations.ScanAdvanceOrder
  intro s load
  refine ⟨fun hj => ?_, fun hj hk => ?_, fun hj hk hi => ?_, fun hj hk hi => ?_⟩
  · rw [scanAdvance_some (scanNext_row hj)]; rfl
  · rw [scanAdvance_some (scanNext_pass hj hk)]; rfl
  · rw [scanAdvance_some (scanNext_column hj hk hi)]; rfl
  · exact scanAdvance_none (scanNext_last hj hk hi)

end Sys2Proof.Machine

/-! ## The configuration commands (43_config.md) -/

namespace Sys2Proof.Machine

/-! ### The STATUS register (43_config.md R106, R108) -/

/-- A CFGW of STATUS is the write-1-to-clear of R106. -/
theorem exec_cfgw_status (v : Byte) (s : State) : exec (.cfgw 3 v) s = .next (s.statusWrite v) := rfl

/-- BUSY reads 0 where MODE is IDLE (10_state.md R25). -/
theorem statusByte_of_idle {s : State} (h : s.mode = .idle) :
    s.statusByte = (0 : Nibble) ++ s.errCode ++ BitVec.ofBool s.err ++ (0 : BitVec 1) := by
  have hbusy : s.busy = false := by simp [State.busy, h]
  rw [State.statusByte, hbusy]
  rfl

/-! ### The selects CFGW and CFGR reject (43_config.md R107, R108) -/

/-- CFGW of a select from 4 on writes the error record alone. -/
theorem exec_cfgw_of_rejected {sel : Nibble} (h : 4 ≤ sel.toNat) (v : Byte) (s : State) :
    exec (.cfgw sel v) s = .next { s with err := true, errCode := if s.err then s.errCode else 0b11 } := by
  rw [exec_cfgw_of_four_le h]
  exact congrArg _ (raiseError_eq s .badReg)

/-- CFGR of a select from 6 on writes the error record and gives the error response. -/
theorem exec_cfgr_of_rejected {sel : Nibble} (h : 6 ≤ sel.toNat) (s : State) :
    exec (.cfgr sel) s = .next { s with err := true, errCode := if s.err then s.errCode else 0b11,
                                        rspValid := true, rspErr := true, rspData := 0x00 } := by
  rw [exec_of_rejection (c := .badReg) (by simp [rejection, h])]
  exact congrArg _ (rejectRead_eq s .badReg)

/-! ### The obligations of 43_config.md -/

/-- Settles O50: the written registers by the select map, STATUS by bit 1 of the value, the other selects by the rejection. -/
theorem cfgwWritesTheSelectedRegister : Obligations.CfgwWritesTheSelectedRegister := by
  unfold Obligations.CfgwWritesTheSelectedRegister
  intro sel v s
  refine ⟨?repeatReg, ?dlyRst, ?dlyBit, ?statusSet, ?statusClear, fun h => exec_cfgw_of_rejected h v s⟩
  case repeatReg => rintro rfl; rfl
  case dlyRst => rintro rfl; rfl
  case dlyBit => rintro rfl; rfl
  case statusSet => rintro rfl hv; rw [exec_cfgw_status, statusWrite_set hv]; rfl
  case statusClear => rintro rfl hv; rw [exec_cfgw_status, statusWrite_clear hv]

/-- Settles O51: each implemented select by the register the select map names, the other selects by the rejection. -/
theorem cfgrRespondsWithTheSelectedRegister : Obligations.CfgrRespondsWithTheSelectedRegister := by
  unfold Obligations.CfgrRespondsWithTheSelectedRegister
  intro sel s hm answer
  refine ⟨?repeatReg, ?dlyRst, ?dlyBit, ?status, ?patOne, ?patZero, fun h => exec_cfgr_of_rejected h s⟩
  case repeatReg => rintro rfl; exact exec_cfgr_of_some (r := .repeatReg) rfl s
  case dlyRst => rintro rfl; exact exec_cfgr_of_some (r := .dlyRst) rfl s
  case dlyBit => rintro rfl; exact exec_cfgr_of_some (r := .dlyBit) rfl s
  case status =>
    rintro rfl
    rw [← statusByte_of_idle hm]
    exact exec_cfgr_of_some (r := .status) rfl s
  case patOne => rintro rfl; exact exec_cfgr_of_some (r := .patOne) rfl s
  case patZero => rintro rfl; exact exec_cfgr_of_some (r := .patZero) rfl s

end Sys2Proof.Machine

/-! ## Rejected commands (60_exceptions.md) -/

namespace Sys2Proof.Machine

/-- Settles O52: a rejection is the error entry, with the error response for the commands that respond. -/
theorem rejectedCommandHasNoOtherEffect : Obligations.RejectedCommandHasNoOtherEffect := by
  unfold Obligations.RejectedCommandHasNoOtherEffect
  intro i c s h
  rw [exec_of_rejection h]
  cases responds i with
  | true => exact congrArg _ (rejectRead_eq s c)
  | false => exact congrArg _ (raiseError_eq s c)

end Sys2Proof.Machine

/-! ## Reset (70_reset_and_hazards.md) -/

namespace Sys2Proof.Machine

/-! ### The reset signal and the reset state (70_reset_and_hazards.md R127, R128) -/

@[simp] theorem cmdReady_of_rst (s : State) : s.cmdReady true = false := by simp [State.cmdReady]

/-- The outputs of R127: those of a reset state are its own elements, and `cmd_ready` is 0 by `rst` alone. -/
theorem outputs_applyReset (s : State) :
    s.applyReset.outputs true = { cmdReady := false, rspValid := false, rspErr := false, rspData := 0x00, portData := 0x00,
                                  portWe := false, busy := false, err := false } := by
  rw [State.outputs, cmdReady_of_rst]
  rfl

/-! ### Runs that begin in reset (70_reset_and_hazards.md R128) -/

theorem run_one (s : State) : Sys2Proof.core.run 1 s = step s := by
  obtain ⟨t, h⟩ := step_next s
  rw [run_succ 0 h, h]
  rfl

/-- An edge with `rst = 1` at the head of the list resets, whatever is offered at it. -/
theorem step_of_rst {s : State} {inp : EdgeInput} {rest : List EdgeInput} (hi : s.inputs = inp :: rest) (hr : inp.rst = true) :
    step s = .next { State.reset with inputs := rest } := by
  rw [step_eq_edge hi, edge_rst hr]
  rfl

/-- Edges with `rst = 1` keep the reset state and use up their inputs. -/
theorem run_reset_of_rst {held : List EdgeInput} (rest : List EdgeInput) (hr : ∀ inp ∈ held, inp.rst = true) :
    Sys2Proof.core.run held.length { State.reset with inputs := held ++ rest } = .next { State.reset with inputs := rest } := by
  induction held with
  | nil => rfl
  | cons inp held ih =>
    obtain ⟨hinp, hheld⟩ := List.forall_mem_cons.mp hr
    rw [List.length_cons, run_succ _ (step_of_rst rfl hinp)]
    exact ih hheld

/-- `rst` held for any number of edges but 0 reaches the reset state from every state. -/
theorem run_heldReset {s : State} {held rest : List EdgeInput} (hne : held ≠ []) (hr : ∀ inp ∈ held, inp.rst = true)
    (hi : s.inputs = held ++ rest) : Sys2Proof.core.run held.length s = .next { State.reset with inputs := rest } := by
  cases held with
  | nil => contradiction
  | cons inp held =>
    obtain ⟨hinp, hheld⟩ := List.forall_mem_cons.mp hr
    rw [List.length_cons, run_succ _ (step_of_rst hi hinp)]
    exact run_reset_of_rst rest hheld

/-! ### The obligations of 70_reset_and_hazards.md -/

/-- Settles O12: a reset edge answers the reset state with the coming inputs, and each element is read off that state. -/
theorem resetEdgeSetsEveryElement : Obligations.ResetEdgeSetsEveryElement := by
  unfold Obligations.ResetEdgeSetsEveryElement
  intro s inp hr
  refine ⟨s.applyReset, edge_rst hr s, Memory.read_nil, ?_⟩
  simp only [cmdReady_of_rst, outputs_applyReset]
  simp [State.applyReset, State.reset, Config.scanRepeat]

/-- Settles O13: the held edges end in the reset state with the offer first, and the edge after them accepts that offer. -/
theorem heldResetThenFirstCommand : Obligations.HeldResetThenFirstCommand := by
  unfold Obligations.HeldResetThenFirstCommand
  refine ⟨cmdReady_of_rst, fun s held rest w hne hr hi => ?_⟩
  have hrun := run_heldReset hne hr hi
  refine ⟨hrun, ?_⟩
  rw [run_add _ 1 hrun, run_one]
  exact step_accept rfl rfl

end Sys2Proof.Machine

/-! ## The round trip, the opcode rows and the assembler's words (30_encoding.md) -/

namespace Sys2Proof

/-! ### Masks, field by field (30_encoding.md R60) -/

/-- A mask written in the format CMD32 acts on each field by itself. -/
theorem and_cmdWord (w : Word) (op ra cb : Nibble) (d : Data) :
    w &&& cmdWord op ra cb d = cmdWord (opField w &&& op) (raField w &&& ra) (cbField w &&& cb) (dataField w &&& d) := by
  refine BitVec.eq_of_getLsbD_eq fun i hi => ?_
  simp only [BitVec.getLsbD_and, getLsbD_cmdWord, getLsbD_opField, getLsbD_raField, getLsbD_cbField, dataField,
    BitVec.getLsbD_extractLsb', Nat.zero_add]
  split
  next hdata => simp [hdata]
  next hdata =>
    split
    next => simp
    next hrsv =>
      split
      next hcb => simp [show i - 20 < 4 by omega, Nat.add_sub_cancel' (Nat.le_of_not_lt hrsv)]
      next hcb =>
        split
        next hra => simp [show i - 24 < 4 by omega, Nat.add_sub_cancel' (Nat.le_of_not_lt hcb)]
        next hra => simp [show i - 28 < 4 by omega, Nat.add_sub_cancel' (Nat.le_of_not_lt hra)]

/-- `zext_16(trunc_8(DATA))` is DATA with its high byte cleared (30_encoding.md R65). -/
theorem zextData_valueField (w : Word) : zextData (valueField w) = dataField w &&& 0x00FF := by
  refine BitVec.eq_of_toNat_eq ?_
  have hmask : (dataField w).toNat &&& 255 = (dataField w).toNat % 256 := Nat.and_two_pow_sub_one_eq_mod _ 8
  simp only [zextData, valueField, truncByte, BitVec.toNat_setWidth, BitVec.toNat_and]
  rw [show (0x00FF : Data).toNat = 255 from rfl, hmask]
  omega

/-! A field under its full mask stays and under the empty mask is cleared. -/

@[simp] theorem nibble_and_full (x : Nibble) : x &&& 0xF = x := BitVec.and_allOnes

@[simp] theorem nibble_and_empty (x : Nibble) : x &&& 0 = 0 := BitVec.and_zero

@[simp] theorem data_and_empty (d : Data) : d &&& 0 = 0 := BitVec.and_zero

/-- The mask of the eight commands' rows picks out OP. -/
theorem and_opMask (w : Word) : w &&& 0xF0000000 = cmdWord (opField w) 0 0 0 := by
  rw [show (0xF0000000 : Word) = cmdWord 0xF 0 0 0 from rfl, and_cmdWord, nibble_and_full, nibble_and_empty,
    nibble_and_empty, data_and_empty]

/-- The mask of the reserved row picks out the high bit of OP. -/
theorem and_reservedMask (w : Word) : w &&& 0x80000000 = cmdWord (opField w &&& 8) 0 0 0 := by
  rw [show (0x80000000 : Word) = cmdWord 8 0 0 0 from rfl, and_cmdWord, nibble_and_empty, nibble_and_empty, data_and_empty]

theorem reserved_iff_highBit {op : Nibble} : op &&& 8 = 8 ↔ 8 ≤ op.toNat := by
  revert op; decide

/-- What each row reads, written in the format CMD32 (30_encoding.md R66, R67). -/
def usedFields : Instr → Word
  | .nop | .refresh => cmdWord 0xF 0 0 0
  | .wr _ _ _ => cmdWord 0xF 0xF 0xF 0x00FF
  | .rd _ _ => cmdWord 0xF 0xF 0xF 0
  | .fill _ | .emit _ => cmdWord 0xF 0 0 0x00FF
  | .cfgw _ _ => cmdWord 0xF 0xF 0 0x00FF
  | .cfgr _ => cmdWord 0xF 0xF 0 0
  | .illegal => cmdWord 8 0 0 0

theorem usedBits_eq_usedFields (i : Instr) : usedBits i = usedFields i := by
  cases i <;> rfl

/-- `encode` after `decode` clears the bits the command does not read. -/
theorem encode_decode (w : Word) : encode (decode w) = w &&& usedBits (decode w) := by
  rw [usedBits_eq_usedFields]
  obtain h | h | h | h | h | h | h | h | h := opcode_cases (opField w)
  · rw [decode_nop h, usedFields, and_cmdWord, h]
    simp only [encode, nibble_and_full, nibble_and_empty, data_and_empty]
  · rw [decode_wr h, usedFields, and_cmdWord, h]
    simp only [encode, nibble_and_full, zextData_valueField]
  · rw [decode_rd h, usedFields, and_cmdWord, h]
    simp only [encode, nibble_and_full, data_and_empty]
  · rw [decode_fill h, usedFields, and_cmdWord, h]
    simp only [encode, nibble_and_full, nibble_and_empty, zextData_valueField]
  · rw [decode_emit h, usedFields, and_cmdWord, h]
    simp only [encode, nibble_and_full, nibble_and_empty, zextData_valueField]
  · rw [decode_refresh h, usedFields, and_cmdWord, h]
    simp only [encode, nibble_and_full, nibble_and_empty, data_and_empty]
  · rw [decode_cfgw h, usedFields, and_cmdWord, h]
    simp only [encode, nibble_and_full, nibble_and_empty, zextData_valueField]
  · rw [decode_cfgr h, usedFields, and_cmdWord, h]
    simp only [encode, nibble_and_full, nibble_and_empty, data_and_empty]
  · rw [decode_illegal h, usedFields, and_cmdWord, reserved_iff_highBit.mpr h]
    simp only [encode, nibble_and_empty, data_and_empty]

/-- `decode` after `encode` is the identity: each field is the one the word was built from. -/
theorem decode_encode (i : Instr) : decode (encode i) = i := by
  cases i with
  | nop => exact decode_nop (opField_cmdWord 0 0 0 0)
  | wr r c v =>
    rw [encode, decode_wr (opField_cmdWord 1 r c _), raField_cmdWord, cbField_cmdWord, valueField_cmdWord, truncByte_zextData]
  | rd r c => rw [encode, decode_rd (opField_cmdWord 2 r c _), raField_cmdWord, cbField_cmdWord]
  | fill v => rw [encode, decode_fill (opField_cmdWord 3 0 0 _), valueField_cmdWord, truncByte_zextData]
  | emit v => rw [encode, decode_emit (opField_cmdWord 4 0 0 _), valueField_cmdWord, truncByte_zextData]
  | refresh => exact decode_refresh (opField_cmdWord 5 0 0 0)
  | cfgw sel v =>
    rw [encode, decode_cfgw (opField_cmdWord 6 sel 0 _), raField_cmdWord, valueField_cmdWord, truncByte_zextData]
  | cfgr sel => rw [encode, decode_cfgr (opField_cmdWord 7 sel 0 _), raField_cmdWord]
  | illegal => exact decode_illegal (by rw [encode, opField_cmdWord]; decide)

/-! ### The rows of the opcode table (30_encoding.md R66, R69) -/

/-- One of the eight commands' rows selects a word exactly by the word's OP. -/
theorem opField_eq_of_and_opMask {w : Word} {op : Nibble} (h : w &&& 0xF0000000 = cmdWord op 0 0 0) : opField w = op := by
  rw [and_opMask] at h
  simpa only [opField_cmdWord] using congrArg opField h

/-- The row of the decoded command selects the word. -/
theorem and_rowMask_decode (w : Word) : w &&& rowMask (decode w) = rowMatch (decode w) := by
  obtain h | h | h | h | h | h | h | h | h := opcode_cases (opField w)
  · rw [decode_nop h]; exact (and_opMask w).trans (by rw [h]; rfl)
  · rw [decode_wr h]; exact (and_opMask w).trans (by rw [h]; rfl)
  · rw [decode_rd h]; exact (and_opMask w).trans (by rw [h]; rfl)
  · rw [decode_fill h]; exact (and_opMask w).trans (by rw [h]; rfl)
  · rw [decode_emit h]; exact (and_opMask w).trans (by rw [h]; rfl)
  · rw [decode_refresh h]; exact (and_opMask w).trans (by rw [h]; rfl)
  · rw [decode_cfgw h]; exact (and_opMask w).trans (by rw [h]; rfl)
  · rw [decode_cfgr h]; exact (and_opMask w).trans (by rw [h]; rfl)
  · rw [decode_illegal h]; exact (and_reservedMask w).trans (by rw [reserved_iff_highBit.mpr h]; rfl)

/-- A command whose row selects the word has the row of the decoded command. -/
theorem rowMatch_decode_of_selected {w : Word} {i : Instr} (h : w &&& rowMask i = rowMatch i) :
    rowMatch (decode w) = rowMatch i := by
  cases i with
  | nop => rw [decode_nop (opField_eq_of_and_opMask h)]
  | wr r c v => rw [decode_wr (opField_eq_of_and_opMask h)]; rfl
  | rd r c => rw [decode_rd (opField_eq_of_and_opMask h)]; rfl
  | fill v => rw [decode_fill (opField_eq_of_and_opMask h)]; rfl
  | emit v => rw [decode_emit (opField_eq_of_and_opMask h)]; rfl
  | refresh => rw [decode_refresh (opField_eq_of_and_opMask h)]
  | cfgw sel v => rw [decode_cfgw (opField_eq_of_and_opMask h)]; rfl
  | cfgr sel => rw [decode_cfgr (opField_eq_of_and_opMask h)]; rfl
  | illegal =>
    have hmatch : cmdWord (opField w &&& 8) 0 0 0 = cmdWord 8 0 0 0 := (and_reservedMask w).symm.trans h
    have hop : opField w &&& 8 = 8 := by simpa only [opField_cmdWord] using congrArg opField hmatch
    rw [decode_illegal (reserved_iff_highBit.mp hop)]

/-! ### The assembler's words (30_encoding.md R71) -/

/-- The hardware keeps the low byte of a value written with 16 bits (30_encoding.md R65). -/
theorem truncByte_ofNat (v : Nat) : truncByte (BitVec.ofNat 16 v) = BitVec.ofNat 8 v := by
  refine BitVec.eq_of_toNat_eq ?_
  simp only [truncByte, BitVec.toNat_setWidth, BitVec.toNat_ofNat]
  omega

/-- The assembler's word of a command decodes to that command. -/
theorem decode_word (c : AsmCmd) : decode c.word = c.instr := by
  cases c with
  | nop => exact decode_nop (opField_cmdWord 0 0 0 0)
  | wr r c v =>
    rw [AsmCmd.word, decode_wr (opField_cmdWord 1 _ _ _), raField_cmdWord, cbField_cmdWord, valueField_cmdWord,
      truncByte_ofNat, AsmCmd.instr]
  | rd r c => rw [AsmCmd.word, decode_rd (opField_cmdWord 2 _ _ _), raField_cmdWord, cbField_cmdWord, AsmCmd.instr]
  | fill v => rw [AsmCmd.word, decode_fill (opField_cmdWord 3 _ _ _), valueField_cmdWord, truncByte_ofNat, AsmCmd.instr]
  | emit v => rw [AsmCmd.word, decode_emit (opField_cmdWord 4 _ _ _), valueField_cmdWord, truncByte_ofNat, AsmCmd.instr]
  | refresh => exact decode_refresh (opField_cmdWord 5 0 0 0)
  | cfgw s v =>
    rw [AsmCmd.word, decode_cfgw (opField_cmdWord 6 _ _ _), raField_cmdWord, valueField_cmdWord, truncByte_ofNat, AsmCmd.instr]
  | cfgr s => rw [AsmCmd.word, decode_cfgr (opField_cmdWord 7 _ _ _), raField_cmdWord, AsmCmd.instr]

theorem word_rd {r c : Nat} (hr : r ≤ 15) (hc : c ≤ 15) :
    (AsmCmd.rd r c).word = BitVec.ofNat 32 ((0x2 <<< 28) ||| (r <<< 24) ||| (c <<< 20)) := by
  have hword := cmdWord_ofNat (op := 2) (v := 0) (by decide) hr hc (by decide)
  rwa [Nat.or_zero] at hword

theorem word_fill {v : Nat} (hv : v ≤ 0xFFFF) : (AsmCmd.fill v).word = BitVec.ofNat 32 ((0x3 <<< 28) ||| v) := by
  have hword := cmdWord_ofNat (op := 3) (ra := 0) (cb := 0) (by decide) (by decide) (by decide) hv
  rwa [Nat.zero_shiftLeft, Nat.zero_shiftLeft, Nat.or_zero, Nat.or_zero] at hword

theorem word_emit {v : Nat} (hv : v ≤ 0xFFFF) : (AsmCmd.emit v).word = BitVec.ofNat 32 ((0x4 <<< 28) ||| v) := by
  have hword := cmdWord_ofNat (op := 4) (ra := 0) (cb := 0) (by decide) (by decide) (by decide) hv
  rwa [Nat.zero_shiftLeft, Nat.zero_shiftLeft, Nat.or_zero, Nat.or_zero] at hword

theorem word_cfgr {s : Nat} (hs : s ≤ 15) : (AsmCmd.cfgr s).word = BitVec.ofNat 32 ((0x7 <<< 28) ||| (s <<< 24)) := by
  have hword := cmdWord_ofNat (op := 7) (cb := 0) (v := 0) (by decide) hs (by decide) (by decide)
  rwa [Nat.zero_shiftLeft, Nat.or_zero, Nat.or_zero] at hword

/-- A line's numbers fit exactly when those of the commands it stands for do. -/
theorem AsmLine.wellFormed_iff {l : AsmLine} : l.wellFormed = true ↔ ∀ c ∈ l.expand, c.wellFormed = true := by
  cases l with
  | cmd c => simp [AsmLine.wellFormed, AsmLine.expand]
  | clear => simp [AsmLine.wellFormed, AsmLine.expand, AsmCmd.wellFormed, fitsData]
  | clrErr => simp [AsmLine.wellFormed, AsmLine.expand, AsmCmd.wellFormed, fitsData, fitsNibble]
  | setRepeat n => simp [AsmLine.wellFormed, AsmLine.expand, AsmCmd.wellFormed, fitsNibble]
  | setDelay a b => simp [AsmLine.wellFormed, AsmLine.expand, AsmCmd.wellFormed, fitsNibble]
  | set r c v => simp [AsmLine.wellFormed, AsmLine.expand, AsmCmd.wellFormed]

theorem assemble_eq_none_iff {l : AsmLine} : l.assemble = none ↔ ∃ c ∈ l.expand, c.wellFormed = false := by
  have hwf : l.assemble = none ↔ ¬ l.wellFormed = true := by simp [AsmLine.assemble]
  rw [hwf, AsmLine.wellFormed_iff]
  simp

/-! ### The obligations of 30_encoding.md -/

/-- Settles O1: each field of the word is the operand it was built from. -/
theorem decodeOfEncodeIsTheCommand : Obligations.DecodeOfEncodeIsTheCommand := by
  unfold Obligations.DecodeOfEncodeIsTheCommand
  exact fun i _ => decode_encode i

/-- Settles O2: the used bits as a mask in the format CMD32, which acts on each field by itself. -/
theorem encodeOfDecodeKeepsTheUsedBits : Obligations.EncodeOfDecodeKeepsTheUsedBits := by
  unfold Obligations.EncodeOfDecodeKeepsTheUsedBits
  exact encode_decode

/-- Settles O3: a row's mask picks out OP, or for the reserved row its high bit, and OP is what the decoder goes by. -/
theorem decoderPicksTheOneSelectingRow : Obligations.DecoderPicksTheOneSelectingRow := by
  unfold Obligations.DecoderPicksTheOneSelectingRow
  exact ⟨and_rowMask_decode, fun w i h => rowMatch_decode_of_selected h⟩

/-- Settles O8: the words as numbers, and a line's check as those of its commands. -/
theorem assemblerWordsFollowTheSyntaxTable : Obligations.AssemblerWordsFollowTheSyntaxTable := by
  unfold Obligations.AssemblerWordsFollowTheSyntaxTable
  refine ⟨fun c _ => decode_word c, fun r c v hr hc hv => ?_, rfl, rfl, fun l => assemble_eq_none_iff, fun l h => ?_⟩
  · exact ⟨word_wr hr hc hv, word_rd hr hc, word_fill hv, word_emit hv, word_cfgw hr hv, word_cfgr hr⟩
  · exact assemble_of_wellFormed (AsmLine.wellFormed_iff.mpr h)

/-- Settles O6: the decoder evaluated on the nine words. -/
theorem sampleWordsDecode : Obligations.SampleWordsDecode := by
  unfold Obligations.SampleWordsDecode
  decide

end Sys2Proof

/-! ## Whole-machine rules: what one edge can change (10_state.md, 20_memory.md, 43_config.md) -/

namespace Sys2Proof.Machine

/-! ### What an accepted command does outside the records -/

/-- What executing a command in `s` leads to, the records (ERR, ERRCODE and the response) left open where the command changes nothing else. -/
inductive Effect (s : State) : Instr → State → Prop where
  | store (r c : Nibble) (v : Byte) (h : inRange r c = true) : Effect s (.wr r c v) (s.hostWrite (addr r c) v)
  | startFill (v : Byte) : Effect s (.fill v) { s with fval := v, fcnt := 0, mode := .fill }
  | startEmit (v : Byte) : Effect s (.emit v) { s.serLoad v with src := .emit, mode := .ser }
  | startScan (h : s.repeatCount ≠ 0) :
      Effect s .refresh { s.serLoad (s.fb.read (scanAddr 0 0)) with src := .scan, i := 0, k := 0, j := 0, mode := .ser }
  | setRepeat (v : Byte) : Effect s (.cfgw 0 v) { s with repeatCount := v }
  | setDlyRst (v : Byte) : Effect s (.cfgw 1 v) { s with dlyRst := v }
  | setDlyBit (v : Byte) : Effect s (.cfgw 2 v) { s with dlyBit := v }
  | records (i : Instr) (err : Bool) (errCode : BitVec 2) (rspValid rspErr : Bool) (rspData : Byte) :
      Effect s i { s with err := err, errCode := errCode, rspValid := rspValid, rspErr := rspErr, rspData := rspData }

section
variable {i : Instr} {s t : State}

theorem Effect.unchanged (i : Instr) (s : State) : Effect s i s :=
  .records i s.err s.errCode s.rspValid s.rspErr s.rspData

theorem Effect.raiseError (i : Instr) (s : State) (c : ErrorCause) : Effect s i (s.raiseError c) := by
  rw [raiseError_eq]
  exact .records i _ _ s.rspValid s.rspErr s.rspData

theorem Effect.statusWrite (i : Instr) (s : State) (v : Byte) : Effect s i (s.statusWrite v) := by
  cases hv : v.getLsbD 1 with
  | true => rw [statusWrite_set hv]; exact .records i false 0b00 s.rspValid s.rspErr s.rspData
  | false => rw [statusWrite_clear hv]; exact .unchanged i s

/-- The inversion of `exec` outside the records, a constructor per effect. -/
theorem effect_of_exec (h : exec i s = .next t) : Effect s i t := by
  cases hrej : rejection i with
  | some c =>
    rw [exec_of_rejection hrej] at h
    cases h
    split
    · rw [rejectRead_eq]; exact .records i _ _ _ _ _
    · exact .raiseError i s c
  | none =>
    cases i with
    | nop => cases h; exact .unchanged _ s
    | wr r c v =>
      have hin : inRange r c = true := by simpa [rejection] using hrej
      rw [exec_wr_of_inRange hin] at h
      cases h; exact .store r c v hin
    | rd r c =>
      have hin : inRange r c = true := by simpa [rejection] using hrej
      rw [exec_rd_of_inRange hin] at h
      cases h; exact .records _ s.err s.errCode _ _ _
    | fill v => cases h; exact .startFill v
    | emit v => cases h; exact .startEmit v
    | refresh =>
      simp only [exec, execRefresh] at h
      split at h
      next => cases h; exact .unchanged _ s
      next hne => cases h; exact .startScan hne
    | cfgw sel v =>
      obtain ⟨rfl, rfl⟩ | ⟨rfl, rfl⟩ | ⟨rfl, rfl⟩ | ⟨rfl, rfl⟩ | ⟨-, rfl⟩ := exec_cfgw_cases h
      · exact .setRepeat v
      · exact .setDlyRst v
      · exact .setDlyBit v
      · exact .statusWrite _ s v
      · exact .raiseError _ s .badReg
    | cfgr sel =>
      cases hc : configReg sel with
      | some r =>
        rw [exec_cfgr_of_some hc] at h
        cases h; exact .records _ s.err s.errCode _ _ _
      | none =>
        have hlt : sel.toNat < 6 := by simpa [rejection] using hrej
        exact absurd (configReg_eq_none_iff.mp hc) (by omega)
    | illegal => cases hrej

/-- No command writes the port, and none uses up an input (10_state.md R17). -/
theorem exec_port (h : exec i s = .next t) : t.port = s.port ∧ t.portWe = s.portWe ∧ t.inputs = s.inputs := by
  cases effect_of_exec h <;> exact ⟨rfl, rfl, rfl⟩

/-- A command changes FB only as a WR in range (40_framebuffer.md R75). -/
theorem exec_fb (h : exec i s = .next t) :
    t.fb = s.fb ∨ ∃ r c v, i = .wr r c v ∧ inRange r c = true ∧ t.fb = s.fb.write (addr r c) v := by
  cases effect_of_exec h with
  | store r c v hin => exact .inr ⟨r, c, v, rfl, hin, rfl⟩
  | _ => exact .inl rfl

/-- A single-edge command leaves MODE (70_reset_and_hazards.md R143). -/
theorem exec_mode_of_singleEdge (h : exec i s = .next t) (hi : singleEdge i = true) : t.mode = s.mode := by
  cases effect_of_exec h with
  | startFill | startEmit | startScan => cases hi
  | _ => rfl

/-- A REFRESH with REPEAT = 0 does nothing (42_scanner.md R96). -/
theorem exec_refresh_of_zero (h : s.repeatCount = 0) : exec .refresh s = .next s := if_pos h

/-- A REFRESH with REPEAT not 0 loads cell (0, 0) and starts the scan (42_scanner.md R96). -/
theorem exec_refresh_of_ne_zero (h : s.repeatCount ≠ 0) :
    exec .refresh s =
      .next { s.serLoad (s.fb.read (scanAddr 0 0)) with src := .scan, i := 0, k := 0, j := 0, mode := .ser } := if_neg h

/-- A command that does not stay within its accepting edge is a FILL, an EMIT or a REFRESH. -/
theorem exec_mode (h : exec i s = .next t) (hm : s.mode = .idle) :
    (t.mode = .fill ↔ ∃ v, i = .fill v) ∧ (t.mode = .ser ↔ (∃ v, i = .emit v) ∨ (i = .refresh ∧ s.repeatCount ≠ 0)) := by
  cases i with
  | fill v => cases h; simp
  | emit v => cases h; simp
  | refresh =>
    by_cases hz : s.repeatCount = 0
    · rw [exec_refresh_of_zero hz] at h
      cases h; simp [hm, hz]
    · rw [exec_refresh_of_ne_zero hz] at h
      cases h; simpa using hz
  | nop | wr | rd | cfgw | cfgr | illegal =>
    rw [exec_mode_of_singleEdge h rfl, hm]
    simp

end

/-! ### What the serializer's step does to the port and to MODE (41_serializer.md R88, R89) -/

/-! The end of a bit leaves the fields that are neither MODE, the scan's position nor the serializer's own. -/

section
variable (s : State)

@[simp] theorem bitDone_port : s.bitDone.port = s.port := by obtain ⟨-, h, -⟩ := bitDone_frame s; exact h
@[simp] theorem bitDone_portWe : s.bitDone.portWe = s.portWe := by obtain ⟨-, -, h, -⟩ := bitDone_frame s; exact h

end

section
variable {s : State}

theorem serStep_port_w0 (h : s.phase = .w0) : s.serStep.port = Config.pReset ∧ s.serStep.portWe = true := by
  rw [serStep_w0 h]; split <;> exact ⟨rfl, rfl⟩

theorem serStep_port_w1 (h : s.phase = .w1) : s.serStep.port = pattern (s.sh.getLsbD 0) ∧ s.serStep.portWe = true := by
  rw [serStep_w1 h]; split
  · exact ⟨bitDone_port _, bitDone_portWe _⟩
  · exact ⟨rfl, rfl⟩

theorem serStep_port_hold (h : s.phase = .h0 ∨ s.phase = .h1) : s.serStep.port = s.port ∧ s.serStep.portWe = s.portWe := by
  obtain h | h := h
  · rw [serStep_h0 h]; split <;> exact ⟨rfl, rfl⟩
  · rw [serStep_h1 h]; split
    · exact ⟨bitDone_port _, bitDone_portWe _⟩
    · exact ⟨rfl, rfl⟩

/-- The state in which a bit's last micro-step ends the bit: at a W1 edge the bit pattern is written first. -/
def State.atBitEnd (s : State) : State :=
  if s.phase = .w1 then { s.portWrite (pattern (s.sh.getLsbD 0)) with sh := s.sh >>> 1 } else s

theorem atBitEnd_frame (s : State) :
    s.atBitEnd.fb = s.fb ∧ s.atBitEnd.mode = s.mode ∧ s.atBitEnd.src = s.src ∧ s.atBitEnd.scanNext = s.scanNext := by
  unfold State.atBitEnd; split <;> exact ⟨rfl, rfl, rfl, rfl⟩

theorem cellEnds_iff : s.cellEnds = true ↔
    s.mode = .ser ∧ s.b.toNat = 7 ∧ ((s.phase = .w1 ∧ s.dlyBit = 0) ∨ (s.phase = .h1 ∧ s.dcnt = 0)) := by
  simp only [State.cellEnds, Bool.and_eq_true, Bool.or_eq_true, decide_eq_true_eq, and_assoc]

/-- The last micro-step of a cell's last bit ends the cell. -/
theorem serStep_of_cellEnds (h : s.cellEnds = true) : s.serStep = s.atBitEnd.cellDone := by
  obtain ⟨-, hb, ⟨hp, hd⟩ | ⟨hp, hd⟩⟩ := cellEnds_iff.mp h
  · rw [serStep_w1 hp, if_pos hd, State.atBitEnd, if_pos hp]
    exact bitDone_of_last (BitVec.eq_of_toNat_eq hb)
  · rw [serStep_h1 hp, if_pos hd, State.atBitEnd, if_neg (by simp [hp])]
    exact bitDone_of_last (BitVec.eq_of_toNat_eq hb)

/-- Any other micro-step of a running serializer leaves MODE. -/
theorem serStep_mode_of_not_cellEnds (hm : s.mode = .ser) (h : s.cellEnds = false) : s.serStep.mode = .ser := by
  have hbit (u : State) (hu : u.b = s.b) (hum : u.mode = .ser)
      (hlast : (s.phase = .w1 ∧ s.dlyBit = 0) ∨ (s.phase = .h1 ∧ s.dcnt = 0)) : u.bitDone.mode = .ser := by
    have hb : s.b.toNat ≠ 7 := fun hb => Bool.false_ne_true (h.symm.trans (cellEnds_iff.mpr ⟨hm, hb, hlast⟩))
    rw [bitDone_of_lt (by rw [hu]; omega)]
    exact hum
  cases hp : s.phase with
  | w0 => rw [serStep_w0 hp]; split <;> exact hm
  | h0 => rw [serStep_h0 hp]; split <;> exact hm
  | w1 =>
    rw [serStep_w1 hp]
    split
    next hd => exact hbit _ rfl hm (.inl ⟨hp, hd⟩)
    next => exact hm
  | h1 =>
    rw [serStep_h1 hp]
    split
    next hd => exact hbit _ rfl hm (.inr ⟨hp, hd⟩)
    next => exact hm

theorem cellDone_mode (hm : s.mode = .ser) :
    s.cellDone.mode = if s.src = .emit ∨ s.scanNext = none then .idle else .ser := by
  cases hsrc : s.src with
  | emit => rw [cellDone_emit hsrc]; simp
  | scan =>
    rw [cellDone_scan hsrc]
    cases hn : s.scanNext with
    | none => rw [scanAdvance_none hn]; simp
    | some p => rw [scanAdvance_some hn]; simpa using hm

/-- A serializer's step ends the command at the end of an EMIT's value or of a scan's last cell (41_serializer.md R89, 42_scanner.md R98). -/
theorem serStep_mode (hm : s.mode = .ser) :
    s.serStep.mode = if s.cellEnds = true ∧ (s.src = .emit ∨ s.scanNext = none) then .idle else .ser := by
  cases hc : s.cellEnds with
  | false => simpa using serStep_mode_of_not_cellEnds hm hc
  | true =>
    obtain ⟨-, hmode, hsrc, hnext⟩ := atBitEnd_frame s
    rw [serStep_of_cellEnds hc, cellDone_mode (hmode.trans hm), hsrc, hnext]
    simp

end

/-! ### The array's ports (20_memory.md R46, R47) -/

section
variable (inp : EdgeInput) (s : State)

/-- Port A is driven by an accepted WR or RD in range, or by a FILL step. -/
theorem portA_cases :
    (∃ r c v, accepted inp s = some (.wr r c v) ∧ inRange r c = true ∧ portA inp s = .write (addr r c) v) ∨
    (∃ r c, accepted inp s = some (.rd r c) ∧ inRange r c = true ∧ portA inp s = .read (addr r c)) ∨
    (s.mode = .fill ∧ inp.rst = false ∧ portA inp s = .write s.fcnt s.fval) ∨ portA inp s = .off := by
  unfold portA
  split
  next r c v ha =>
    split
    next hin => exact .inl ⟨r, c, v, ha, hin, rfl⟩
    next => exact .inr (.inr (.inr rfl))
  next r c ha =>
    split
    next hin => exact .inr (.inl ⟨r, c, ha, hin, rfl⟩)
    next => exact .inr (.inr (.inr rfl))
  next =>
    split
    next hfill =>
      obtain ⟨hm, hr⟩ := Bool.and_eq_true_iff.mp hfill
      exact .inr (.inr (.inl ⟨of_decide_eq_true hm, by simpa using hr, rfl⟩))
    next => exact .inr (.inr (.inr rfl))

/-- Port B is driven by the scanner's fetch: at the edge that accepts a REFRESH, and at the end of each cell but the last. -/
theorem portB_cases :
    (accepted inp s = some .refresh ∧ s.repeatCount ≠ 0 ∧ portB inp s = .read (scanAddr 0 0)) ∨
    (s.cellEnds = true ∧ s.src = .scan ∧ ∃ p, s.scanNext = some p ∧ portB inp s = .read (scanAddr p.i p.j)) ∨
    portB inp s = .off := by
  unfold portB
  split
  next h => obtain ⟨ha, hz⟩ := h; exact .inl ⟨ha, hz, rfl⟩
  next =>
    split
    next h =>
      obtain ⟨hc, hsrc⟩ : s.cellEnds = true ∧ s.src = .scan := by simp_all
      cases hn : s.scanNext with
      | none => exact .inr (.inr rfl)
      | some p => exact .inr (.inl ⟨hc, hsrc, p, rfl, rfl⟩)
    next => exact .inr (.inr rfl)

/-- Port B never writes (20_memory.md R47). -/
theorem portB_readOnly : (portB inp s).we = false ∧ (portB inp s).wdata = 0x00 := by
  obtain ⟨-, -, h⟩ | ⟨-, -, p, -, h⟩ | h := portB_cases inp s <;> (rw [h]; exact ⟨rfl, rfl⟩)

end

section
variable {inp : EdgeInput} {s : State}

theorem portA_en_cases (h : (portA inp s).en = true) : (s.mode = .fill ∧ inp.rst = false) ∨
    (s.mode = .idle ∧ ∃ i, accepted inp s = some i ∧ ((∃ r c v, i = .wr r c v) ∨ ∃ r c, i = .rd r c)) := by
  obtain ⟨r, c, v, ha, -, -⟩ | ⟨r, c, ha, -, -⟩ | ⟨hm, hr, -⟩ | hoff := portA_cases inp s
  · obtain ⟨-, hm, -⟩ := accepted_eq_some.mp ha
    exact .inr ⟨hm, _, ha, .inl ⟨r, c, v, rfl⟩⟩
  · obtain ⟨-, hm, -⟩ := accepted_eq_some.mp ha
    exact .inr ⟨hm, _, ha, .inr ⟨r, c, rfl⟩⟩
  · exact .inl ⟨hm, hr⟩
  · rw [hoff] at h; cases h

theorem portB_en_cases (h : (portB inp s).en = true) : s.mode = .ser ∨ (s.mode = .idle ∧ accepted inp s = some .refresh) := by
  obtain ⟨ha, -, -⟩ | ⟨hc, -, -⟩ | hoff := portB_cases inp s
  · obtain ⟨-, hm, -⟩ := accepted_eq_some.mp ha
    exact .inr ⟨hm, ha⟩
  · obtain ⟨hm, -⟩ := cellEnds_iff.mp hc
    exact .inl hm
  · rw [hoff] at h; cases h

/-- The two ports are never enabled at one edge (20_memory.md R52). -/
theorem not_both_enabled : ¬ ((portA inp s).en = true ∧ (portB inp s).en = true) := by
  rintro ⟨hA, hB⟩
  obtain ⟨hm, -⟩ | ⟨hm, i, ha, hi⟩ := portA_en_cases hA <;> obtain hm' | ⟨hm', ha'⟩ := portB_en_cases hB
  · rw [hm] at hm'; cases hm'
  · rw [hm] at hm'; cases hm'
  · rw [hm] at hm'; cases hm'
  · rw [ha] at ha'; cases ha'
    obtain ⟨r, c, v, hi⟩ | ⟨r, c, hi⟩ := hi <;> cases hi

/-- With port B never writing, the array's edge is port A's (20_memory.md R49). -/
theorem arrayEdge_portB (m : Memory) (p : PortReq) : arrayEdge m p (portB inp s) = p.commit m := by
  obtain ⟨hwe, -⟩ := portB_readOnly inp s
  simp [arrayEdge, PortReq.commit, hwe]

theorem portA_of_wr {r c : Nibble} {v : Byte} (ha : accepted inp s = some (.wr r c v)) (hin : inRange r c = true) :
    portA inp s = .write (addr r c) v := by
  simp only [portA, ha, hin]; rfl

theorem portA_of_rd {r c : Nibble} (ha : accepted inp s = some (.rd r c)) (hin : inRange r c = true) :
    portA inp s = .read (addr r c) := by
  simp only [portA, ha, hin]; rfl

theorem portB_of_refresh (ha : accepted inp s = some .refresh) (hz : s.repeatCount ≠ 0) :
    portB inp s = .read (scanAddr 0 0) := if_pos ⟨ha, hz⟩

theorem accepted_of_busy (hm : s.mode ≠ .idle) : accepted inp s = none := by
  simp [accepted, State.cmdReady, hm]

theorem portB_of_cellEnds (hr : inp.rst = false) (hc : s.cellEnds = true) (hsrc : s.src = .scan) {p : ScanPos}
    (hn : s.scanNext = some p) : portB inp s = .read (scanAddr p.i p.j) := by
  obtain ⟨hm, -⟩ := cellEnds_iff.mp hc
  simp [portB, accepted_of_busy (inp := inp) (s := s) (by simp [hm]), hc, hsrc, hn, hr]

end

/-! ### A step by MODE -/

/-- What a step did, by `rst` and MODE, and whether it accepted a command (10_state.md R36). -/
theorem step_mode_cases {s t : State} (h : step s = .next t) :
    (s.nextInput.rst = true ∧ t = s.popInput.applyReset) ∨
    (s.nextInput.rst = false ∧ s.mode = .idle ∧ ∃ i, accepted s.nextInput s = some i ∧ exec i s.popInput.edgeDefaults = .next t) ∨
    (s.nextInput.rst = false ∧ s.mode = .idle ∧ accepted s.nextInput s = none ∧ t = s.popInput.edgeDefaults) ∨
    (s.nextInput.rst = false ∧ s.mode = .fill ∧ t = s.popInput.edgeDefaults.fillStep) ∨
    (s.nextInput.rst = false ∧ s.mode = .ser ∧ t = s.popInput.edgeDefaults.serStep) := by
  obtain ⟨hr, ht⟩ | ⟨hr, hm, hv, hx⟩ | ⟨hr, hm, hv, ht⟩ | ⟨hr, hm, ht⟩ | ⟨hr, hm, ht⟩ := edge_cases h
  · exact .inl ⟨hr, ht⟩
  · exact .inr (.inl ⟨hr, hm, _, accepted_eq_some.mpr ⟨hr, hm, hv, rfl⟩, hx⟩)
  · exact .inr (.inr (.inl ⟨hr, hm, by simp [accepted, hv], ht⟩))
  · exact .inr (.inr (.inr (.inl ⟨hr, hm, ht⟩)))
  · exact .inr (.inr (.inr (.inr ⟨hr, hm, ht⟩)))

/-- The same outside reset. -/
theorem step_mode_cases_of_not_rst {s t : State} (h : step s = .next t) (hr : s.nextInput.rst = false) :
    (s.mode = .idle ∧ ∃ i, accepted s.nextInput s = some i ∧ exec i s.popInput.edgeDefaults = .next t) ∨
    (s.mode = .idle ∧ accepted s.nextInput s = none ∧ t = s.popInput.edgeDefaults) ∨
    (s.mode = .fill ∧ t = s.popInput.edgeDefaults.fillStep) ∨ (s.mode = .ser ∧ t = s.popInput.edgeDefaults.serStep) := by
  obtain ⟨hr', -⟩ | ⟨-, h⟩ | ⟨-, h⟩ | ⟨-, h⟩ | ⟨-, h⟩ := step_mode_cases h
  · rw [hr] at hr'; cases hr'
  · exact .inl h
  · exact .inr (.inl h)
  · exact .inr (.inr (.inl h))
  · exact .inr (.inr (.inr h))

theorem step_unique {s t u : State} (h : step s = .next t) (h' : step s = .next u) : t = u := by
  injection h.symm.trans h'

/-! ### What a step outside reset does to FB, the port and the configuration -/

section
variable {s t : State} (h : step s = .next t) (hr : s.nextInput.rst = false)
include h hr

/-- An edge outside the W0 and W1 edges of the serializer makes no port write and keeps PORT (10_state.md R17). -/
theorem step_port_of_no_write (hs : s.mode = .ser → s.phase = .h0 ∨ s.phase = .h1) : t.port = s.port ∧ t.portWe = false := by
  obtain ⟨-, i, -, hx⟩ | ⟨-, -, rfl⟩ | ⟨-, rfl⟩ | ⟨hm, rfl⟩ := step_mode_cases_of_not_rst h hr
  · obtain ⟨hport, hwe, -⟩ := exec_port hx
    exact ⟨hport, hwe⟩
  · exact ⟨rfl, rfl⟩
  · rw [fillStep_eq]; exact ⟨rfl, rfl⟩
  · exact serStep_port_hold (s := s.popInput.edgeDefaults) (hs hm)

theorem step_eq_serStep (hm : s.mode = .ser) : t = s.popInput.edgeDefaults.serStep :=
  step_unique h (edge_ser hr hm)

theorem step_eq_fillStep (hm : s.mode = .fill) : t = s.popInput.edgeDefaults.fillStep :=
  step_unique h (edge_fill hr hm)

/-- FB after an edge is what port A's signals make of it (20_memory.md R49). -/
theorem step_fb : t.fb = (portA s.nextInput s).commit s.fb := by
  obtain ⟨r, c, v, ha, hin, hA⟩ | ⟨r, c, ha, hin, hA⟩ | ⟨hm, -, hA⟩ | hA := portA_cases s.nextInput s
  · have hx := exec_of_accepted h ha
    rw [exec_wr_of_inRange hin] at hx
    cases hx
    rw [hA]; rfl
  · have hx := exec_of_accepted h ha
    rw [exec_rd_of_inRange hin] at hx
    cases hx
    rw [hA]; rfl
  · rw [step_eq_fillStep h hr hm, fillStep_eq, hA]; rfl
  · rw [hA]
    obtain ⟨-, i, ha, hx⟩ | ⟨-, -, rfl⟩ | ⟨hm, -⟩ | ⟨-, rfl⟩ := step_mode_cases_of_not_rst h hr
    · obtain hfb | ⟨r, c, v, rfl, hin, -⟩ := exec_fb hx
      · exact hfb
      · rw [portA_of_wr ha hin] at hA; cases hA
    · rfl
    · have hfill : portA s.nextInput s = .write s.fcnt s.fval := by
        simp [portA, accepted_of_busy (inp := s.nextInput) (s := s) (by simp [hm]), hm, hr]
      rw [hfill] at hA; cases hA
    · obtain ⟨hfb, -⟩ := serStep_frame s.popInput.edgeDefaults
      exact hfb

/-- A configuration register changes only by a CFGW to its select (43_config.md R105, R110). -/
theorem step_config :
    (t.repeatCount = s.repeatCount ∨ accepted s.nextInput s = some (.cfgw 0 t.repeatCount)) ∧
    (t.dlyRst = s.dlyRst ∨ accepted s.nextInput s = some (.cfgw 1 t.dlyRst)) ∧
    (t.dlyBit = s.dlyBit ∨ accepted s.nextInput s = some (.cfgw 2 t.dlyBit)) := by
  obtain ⟨-, i, ha, hx⟩ | ⟨-, -, rfl⟩ | ⟨-, rfl⟩ | ⟨-, rfl⟩ := step_mode_cases_of_not_rst h hr
  · rw [ha]
    cases effect_of_exec hx with
    | setRepeat v => exact ⟨.inr rfl, .inl rfl, .inl rfl⟩
    | setDlyRst v => exact ⟨.inl rfl, .inr rfl, .inl rfl⟩
    | setDlyBit v => exact ⟨.inl rfl, .inl rfl, .inr rfl⟩
    | _ => exact ⟨.inl rfl, .inl rfl, .inl rfl⟩
  · exact ⟨.inl rfl, .inl rfl, .inl rfl⟩
  · rw [fillStep_eq]; exact ⟨.inl rfl, .inl rfl, .inl rfl⟩
  · obtain ⟨-, hrep, hrst, hbit, -⟩ := serStep_frame s.popInput.edgeDefaults
    exact ⟨.inl hrep, .inl hrst, .inl hbit⟩

end

/-- A reset edge answers the reset state with the coming inputs. -/
theorem step_eq_reset {s t : State} (h : step s = .next t) (hr : s.nextInput.rst = true) : t = s.popInput.applyReset :=
  step_unique h (edge_rst hr _)

/-- A step writes the port exactly at a W0 or W1 edge of the serializer (10_state.md R17, 41_serializer.md R88). -/
theorem step_portWe_iff {s t : State} (h : step s = .next t) :
    t.portWe = true ↔ s.nextInput.rst = false ∧ s.mode = .ser ∧ (s.phase = .w0 ∨ s.phase = .w1) := by
  cases hr : s.nextInput.rst with
  | true => rw [step_eq_reset h hr]; simp [State.applyReset, State.reset]
  | false =>
    by_cases hw : s.mode = .ser ∧ (s.phase = .w0 ∨ s.phase = .w1)
    · obtain ⟨hm, hp⟩ := hw
      have hwe : t.portWe = true := by
        rw [step_eq_serStep h hr hm]
        obtain hp | hp := hp
        · exact (serStep_port_w0 (s := s.popInput.edgeDefaults) hp).2
        · exact (serStep_port_w1 (s := s.popInput.edgeDefaults) hp).2
      simp [hwe, hm, hp]
    · have hwe := (step_port_of_no_write h hr fun hm => by cases hp : s.phase <;> simp_all).2
      simp [hwe, hw]

/-! ### Runs without a port write, and runs that do not stop -/

/-- An idle machine that no command is offered to makes no port write (70_reset_and_hazards.md R130). -/
theorem portWrites_of_no_command (e : Nat) {n : Nat} {s : State} (hm : s.mode = .idle)
    (hv : ∀ inp ∈ s.inputs.take n, inp.cmdValid = false) : portWrites e n s = [] := by
  induction n generalizing e s with
  | zero => rfl
  | succ n ih =>
    have hquiet : s.nextInput.cmdValid = false := by
      unfold State.nextInput
      cases hi : s.inputs with
      | nil => rfl
      | cons inp rest => exact hv inp (by simp [hi])
    have hrest : ∀ inp ∈ s.inputs.tail.take n, inp.cmdValid = false := by
      intro inp hinp
      refine hv inp ?_
      cases hi : s.inputs with
      | nil => simp [hi] at hinp
      | cons x rest => simp_all
    obtain ⟨t, ht⟩ := step_next s
    obtain ⟨htm, hwe, hin⟩ : t.mode = .idle ∧ t.portWe = false ∧ t.inputs = s.inputs.tail := by
      cases hr : s.nextInput.rst with
      | true => rw [step_eq_reset ht hr]; exact ⟨rfl, rfl, rfl⟩
      | false =>
        obtain rfl : t = s.popInput.edgeDefaults := step_unique ht (edge_idle_quiet hr hm hquiet)
        exact ⟨hm, rfl, rfl⟩
    rw [portWrites_succ e n ht, hwe, ih (e + 1) htm (by rwa [hin])]
    rfl

theorem run_next (n : Nat) (s : State) : ∃ t : State, Sys2Proof.core.run n s = .next t := by
  induction n generalizing s with
  | zero => exact ⟨s, rfl⟩
  | succ n ih =>
    obtain ⟨u, hu⟩ := step_next s
    rw [run_succ n hu]
    exact ih u

/-! ### The obligations on what one edge can change -/

/-- Settles O14: the reset edge leads to an idle machine, and no command is offered to it. -/
theorem noPortWriteAfterReset : Obligations.NoPortWriteAfterReset := by
  unfold Obligations.NoPortWriteAfterReset
  intro s e n hr hv
  have hreset : step s = .next s.popInput.applyReset := edge_rst hr _
  rw [portWrites_succ e n hreset, portWrites_of_no_command (e + 1) rfl hv]
  rfl

/-- Settles O15: every edge answers a next state. -/
theorem noRunStops : Obligations.NoRunStops := by
  unfold Obligations.NoRunStops
  exact run_next

/-- Settles O17: by the four micro-steps of the serializer; no other edge writes the port. -/
theorem portWritesOnlyAtSerializerWrites : Obligations.PortWritesOnlyAtSerializerWrites := by
  unfold Obligations.PortWritesOnlyAtSerializerWrites
  intro s t h
  refine ⟨step_portWe_iff h, fun hwe hp => ?_, fun hwe hp => ?_, fun hwe hr => ?_⟩
  · obtain ⟨hr, hm, -⟩ := (step_portWe_iff h).mp hwe
    rw [step_eq_serStep h hr hm]
    exact (serStep_port_w0 (s := s.popInput.edgeDefaults) hp).1
  · obtain ⟨hr, hm, -⟩ := (step_portWe_iff h).mp hwe
    rw [step_eq_serStep h hr hm]
    exact (serStep_port_w1 (s := s.popInput.edgeDefaults) hp).1
  · refine (step_port_of_no_write h hr fun hm => ?_).1
    have hnot : ¬ (s.phase = .w0 ∨ s.phase = .w1) := fun hp => by
      rw [(step_portWe_iff h).mpr ⟨hr, hm, hp⟩] at hwe; cases hwe
    cases hp : s.phase <;> simp_all

/-- Settles O20: only port A writes the array, for a WR in range or a FILL step, and only the cell it addresses. -/
theorem framebufferChangesOnlyByWrFillReset : Obligations.FramebufferChangesOnlyByWrFillReset := by
  unfold Obligations.FramebufferChangesOnlyByWrFillReset
  intro s t h hr a hchange
  rw [step_fb h hr] at hchange
  obtain ⟨hwe, haddr⟩ : (portA s.nextInput s).we = true ∧ (portA s.nextInput s).addr = a := by
    by_contra hno
    exact hchange (PortReq.commit_read_of_not_written _ fun _ hwe haddr => hno ⟨hwe, haddr⟩)
  obtain ⟨r, c, v, ha, hin, hA⟩ | ⟨r, c, -, -, hA⟩ | ⟨hm, -, hA⟩ | hA := portA_cases s.nextInput s
  · rw [hA] at haddr
    exact .inr ⟨r, c, v, ha, hin, haddr.symm⟩
  · rw [hA] at hwe; cases hwe
  · rw [hA] at haddr
    exact .inl ⟨hm, haddr.symm⟩
  · rw [hA] at hwe; cases hwe

/-- Settles O21: each register by the CFGW of its own select; a command is accepted only with MODE = IDLE. -/
theorem configChangesOnlyByCfgw : Obligations.ConfigChangesOnlyByCfgw := by
  unfold Obligations.ConfigChangesOnlyByCfgw
  intro s t h hr
  have hidle {i : Instr} (ha : accepted s.nextInput s = some i) : s.mode = .idle ∧ accepted s.nextInput s = some i := by
    obtain ⟨-, hm, -⟩ := accepted_eq_some.mp ha
    exact ⟨hm, ha⟩
  obtain ⟨hrep, hrst, hbit⟩ := step_config h hr
  exact ⟨fun hne => hidle (hrep.resolve_left hne), fun hne => hidle (hrst.resolve_left hne),
    fun hne => hidle (hbit.resolve_left hne)⟩

/-- Settles O22: from IDLE by the accepted command, in FILL by FCNT, in SER by the end of the command's last cell. -/
theorem busyFromAcceptanceToCompletion : Obligations.BusyFromAcceptanceToCompletion := by
  unfold Obligations.BusyFromAcceptanceToCompletion
  intro s t h hr
  refine ⟨fun hm => ?_, fun hm => ?_, fun hm => ?_⟩
  · obtain ⟨-, i, ha, hx⟩ | ⟨-, ha, rfl⟩ | ⟨hm', -⟩ | ⟨hm', -⟩ := step_mode_cases_of_not_rst h hr
    · rw [ha]
      simpa using exec_mode hx hm
    · simp [ha, hm]
    · rw [hm] at hm'; cases hm'
    · rw [hm] at hm'; cases hm'
  · rw [step_unique h (edge_fill_eq (s := s.popInput) hr hm)]; rfl
  · rw [step_eq_serStep h hr hm]
    exact serStep_mode (s := s.popInput.edgeDefaults) hm

/-- Settles O23: these commands leave MODE, and no command writes the port. -/
theorem singleEdgeCommandsStayReady : Obligations.SingleEdgeCommandsStayReady := by
  unfold Obligations.SingleEdgeCommandsStayReady
  intro i s hi hm
  obtain ⟨t, hx⟩ := exec_next i s
  obtain ⟨hport, hwe, -⟩ := exec_port hx
  exact ⟨t, hx, cmdReady_iff.mpr ⟨(exec_mode_of_singleEdge hx hi).trans hm, rfl⟩, hport, hwe⟩

/-! ### The obligations on the array's ports -/

/-- The edge that accepts a REFRESH with REPEAT not 0 loads the serializer for the scan (42_scanner.md R96). -/
theorem step_scanStart {s t : State} (h : step s = .next t) (ha : accepted s.nextInput s = some .refresh)
    (hz : s.repeatCount ≠ 0) : t.mode = .ser ∧ t.src = .scan ∧ t.sh = s.fb.read (scanAddr 0 0) := by
  have hx := exec_of_accepted h ha
  rw [exec_refresh_of_ne_zero (s := s.popInput.edgeDefaults) hz] at hx
  cases hx; exact ⟨rfl, rfl, rfl⟩

/-- The edge that ends a scanned cell loads the serializer with the next position's cell (42_scanner.md R98). -/
theorem step_scanLoad {s t : State} (h : step s = .next t) (hr : s.nextInput.rst = false) (hc : s.cellEnds = true)
    (hsrc : s.src = .scan) {p : ScanPos} (hn : s.scanNext = some p) :
    t.mode = .ser ∧ t.src = .scan ∧ t.sh = s.fb.read (scanAddr p.i p.j) := by
  obtain ⟨hm, -⟩ := cellEnds_iff.mp hc
  obtain ⟨hfb, hmode, hsrc', hnext⟩ := atBitEnd_frame s.popInput.edgeDefaults
  rw [step_eq_serStep h hr hm, serStep_of_cellEnds (s := s.popInput.edgeDefaults) hc, cellDone_scan (hsrc'.trans hsrc),
    scanAdvance_some (hnext.trans hn)]
  exact ⟨hmode.trans hm, hsrc'.trans hsrc, congrArg (Memory.read · _) hfb⟩

/-- The edge that accepts an RD in range responds with its cell (40_framebuffer.md R76). -/
theorem step_read {s t : State} (h : step s = .next t) {r c : Nibble} (ha : accepted s.nextInput s = some (.rd r c))
    (hin : inRange r c = true) : t.rspValid = true ∧ t.rspErr = false ∧ t.rspData = s.fb.read (addr r c) := by
  have hx := exec_of_accepted h ha
  rw [exec_rd_of_inRange hin] at hx
  cases hx; exact ⟨rfl, rfl, rfl⟩

/-- Settles O25: FB by port A's write, and each read by the edge that drives it: the RD, the scan's start, the scan's next cell. -/
theorem framebufferIsTheTwoPortArray : Obligations.FramebufferIsTheTwoPortArray := by
  unfold Obligations.FramebufferIsTheTwoPortArray
  intro s t h hr
  refine ⟨?array, fun d hd => ?readA, fun d hd => ?readB, fun r c ha hin => ?rd, fun ha hz => ?refresh, fun p hc hsrc hn => ?scan⟩
  case array => rw [arrayEdge_portB]; exact step_fb h hr
  case readA =>
    obtain ⟨r, c, v, -, -, hA⟩ | ⟨r, c, ha, hin, hA⟩ | ⟨-, -, hA⟩ | hA := portA_cases s.nextInput s
    · rw [hA] at hd; cases hd
    · obtain ⟨hvalid, herr, hdata⟩ := step_read h ha hin
      rw [hA] at hd; cases hd
      exact ⟨hvalid, herr, hdata⟩
    · rw [hA] at hd; cases hd
    · rw [hA] at hd; cases hd
  case readB =>
    obtain ⟨ha, hz, hB⟩ | ⟨hc, hsrc, p, hn, hB⟩ | hB := portB_cases s.nextInput s
    · rw [hB] at hd; cases hd
      exact step_scanStart h ha hz
    · rw [hB] at hd; cases hd
      exact step_scanLoad h hr hc hsrc hn
    · rw [hB] at hd; cases hd
  case rd =>
    obtain ⟨-, -, hdata⟩ := step_read h ha hin
    rw [portA_of_rd ha hin, hdata]
    exact ⟨rfl, rfl⟩
  case refresh =>
    obtain ⟨-, -, hsh⟩ := step_scanStart h ha hz
    rw [portB_of_refresh ha hz, hsh]
    exact ⟨rfl, rfl⟩
  case scan =>
    obtain ⟨-, -, hsh⟩ := step_scanLoad h hr hc hsrc hn
    rw [portB_of_cellEnds hr hc hsrc hn, hsh]
    exact ⟨rfl, rfl⟩

/-- Settles O26: port A is driven with MODE = FILL or by a WR or an RD, port B with MODE = SER or by a REFRESH. -/
theorem portsAreNeverEnabledTogether : Obligations.PortsAreNeverEnabledTogether := by
  unfold Obligations.PortsAreNeverEnabledTogether
  intro inp s
  obtain ⟨hwe, hdata⟩ := portB_readOnly inp s
  refine ⟨not_both_enabled, hwe, hdata, fun hen => ?_⟩
  obtain ⟨hm, -⟩ | h := portA_en_cases hen
  · exact .inl hm
  · exact .inr h

/-! ### The obligations on commands and on the framebuffer's use -/

/-- Settles O10: the placed word is the one offered at the next edge, in MODE IDLE. -/
theorem placedWordIsRunByTheNextStep : Obligations.PlacedWordIsRunByTheNextStep := by
  unfold Obligations.PlacedWordIsRunByTheNextStep
  intro s w
  have hplaced : s.withFetchWord 32 w.toNat = { s with mode := .idle, inputs := .offer w :: s.inputs.tail } := by
    rw [State.withFetchWord, tableWord_toNat]
  rw [hplaced, step_accept rfl rfl]

/-- Settles O28: both addresses as numbers, eight times the row plus the column. -/
theorem scanTransposesRowsAndColumns : Obligations.ScanTransposesRowsAndColumns := by
  unfold Obligations.ScanTransposesRowsAndColumns
  intro r c i j hin
  obtain ⟨-, hc⟩ := inRange_iff.mp hin
  have hi := i.isLt
  rw [← BitVec.toNat_inj, addr_toNat hin, scanAddr, cellAddr_toNat]
  omega

/-- Settles O34: FILL's one update. -/
theorem fillStartsAtCellZero : Obligations.FillStartsAtCellZero := by
  unfold Obligations.FillStartsAtCellZero
  exact fun v s => rfl

/-- Settles O38: EMIT's one update. -/
theorem emitLoadsTheSerializer : Obligations.EmitLoadsTheSerializer := by
  unfold Obligations.EmitLoadsTheSerializer
  exact fun v s => rfl

/-- Settles O44: REPEAT = 0 or not; position (0, 0) is cell 0. -/
theorem refreshStartsTheScan : Obligations.RefreshStartsTheScan := by
  unfold Obligations.RefreshStartsTheScan
  exact fun s => ⟨exec_refresh_of_zero, exec_refresh_of_ne_zero⟩

/-- A WR in range offered to an idle machine stores its value and leaves the machine idle. -/
theorem step_wr_offered {s : State} {w : Word} {rest : List EdgeInput} {r c : Nibble} {v : Byte} (hm : s.mode = .idle)
    (hi : s.inputs = .offer w :: rest) (hw : decode w = .wr r c v) (hin : inRange r c = true) :
    ∃ t : State, step s = .next t ∧ t.mode = .idle ∧ t.inputs = rest ∧ t.fb = s.fb.write (addr r c) v := by
  rw [step_accept hm hi, hw, exec_wr_of_inRange hin]
  exact ⟨_, rfl, hm, rfl, rfl⟩

/-- An RD in range offered to an idle machine responds with its cell. -/
theorem step_rd_offered {s : State} {w : Word} {rest : List EdgeInput} {r c : Nibble} (hm : s.mode = .idle)
    (hi : s.inputs = .offer w :: rest) (hw : decode w = .rd r c) (hin : inRange r c = true) :
    ∃ t : State, step s = .next t ∧ t.rspValid = true ∧ t.rspErr = false ∧ t.rspData = s.fb.read (addr r c) := by
  rw [step_accept hm hi, hw, exec_rd_of_inRange hin]
  exact ⟨_, rfl, rfl, rfl, rfl⟩

theorem addr_eq_iff {r c r' c' : Nibble} (h : inRange r c = true) (h' : inRange r' c' = true) :
    addr r c = addr r' c' ↔ r = r' ∧ c = c' := by
  refine ⟨fun heq => ?_, fun ⟨hr, hc⟩ => by rw [hr, hc]⟩
  obtain ⟨-, -, hinj⟩ := cellAddressIsRowMajor
  exact hinj r c r' c' h h' heq

/-- Settles O33: the WR's edge stores, and the RD's edge reads the array that the WR left. -/
theorem readAfterWriteSeesTheWrite : Obligations.ReadAfterWriteSeesTheWrite := by
  unfold Obligations.ReadAfterWriteSeesTheWrite
  intro s w w' rest r c r' c' v hm hwf hi hw hw' hin hin'
  obtain ⟨u, hu, hum, hui, hfb⟩ := step_wr_offered hm hi hw hin
  obtain ⟨t, ht, hvalid, herr, hdata⟩ := step_rd_offered hum hui hw' hin'
  refine ⟨t, (run_succ 1 hu).trans ((run_one u).trans ht), hvalid, herr, ?_⟩
  rw [hdata, hfb]
  simp only [← addr_eq_iff hin' hin]
  split
  next heq => rw [heq]; exact Memory.read_write_eq hwf _ v
  next hne => exact Memory.read_write_ne s.fb v hne

/-- Settles O37: after the FILL's 65 edges every cell holds v, and the 66th edge reads one of them. -/
theorem fillThenReadReturnsTheValue : Obligations.FillThenReadReturnsTheValue := by
  unfold Obligations.FillThenReadReturnsTheValue
  intro s w w' v r c rest rest' hm hwf hi hw hr hrest hw' hin
  obtain ⟨⟨u, hu, hum, hcells, -, -, -, -, -, -, hui⟩, -⟩ := fillFillsAllCellsIn64Edges s w v rest 0 hm hwf hi hw hr
  obtain ⟨t, ht, hvalid, herr, hdata⟩ := step_rd_offered hum (hui.trans hrest) hw' hin
  exact ⟨t, (run_add 65 1 hu).trans ((run_one u).trans ht), hvalid, herr, hdata.trans (hcells _)⟩

end Sys2Proof.Machine

/-! ## The machine's invariant (10_state.md section 2) -/

namespace Sys2Proof.Machine

/-! ### The records -/

theorem ErrorCause.code_ne_zero (c : ErrorCause) : c.code ≠ 0b00 := by cases c <;> decide

theorem rejection_of_rd_outOfRange {r c : Nibble} (h : inRange r c = false) : rejection (.rd r c) = some .range := by
  simp [rejection, h]

theorem rejection_of_cfgr_unimplemented {sel : Nibble} (h : 6 ≤ sel.toNat) : rejection (.cfgr sel) = some .badReg := by
  simp [rejection, h]

theorem singleEdge_of_responds {i : Instr} (h : responds i = true) : singleEdge i = true := by
  obtain ⟨r, c, rfl⟩ | ⟨sel, rfl⟩ := responds_iff.mp h <;> rfl

/-- An error response carries 0x00, and its command is a rejected one (60_exceptions.md R114). -/
theorem exec_errorResponse {i : Instr} {s t : State} (hx : exec i s = .next t) (hi : responds i = true)
    (herr : t.rspErr = true) : t.rspData = 0x00 ∧ t.err = true := by
  obtain ⟨r, c, rfl⟩ | ⟨sel, rfl⟩ := responds_iff.mp hi
  · obtain ⟨-, hrerr, hdata⟩ := exec_rd_response hx
    have hout : inRange r c = false := by simpa [herr] using hrerr
    exact ⟨by simpa [hout] using hdata, (exec_errorRecord_of_rejection hx (rejection_of_rd_outOfRange hout)).1⟩
  · obtain ⟨-, hrerr, hdata⟩ := exec_cfgr_response hx
    have hsel : 6 ≤ sel.toNat := by simpa [herr] using hrerr
    exact ⟨by simpa [configReg_eq_none_iff.mpr hsel] using hdata,
      (exec_errorRecord_of_rejection hx (rejection_of_cfgr_unimplemented hsel)).1⟩

section
variable {s t : State} (hstep : step s = .next t)
include hstep

/-- ERR = 0 goes with ERRCODE = 0b00, whatever the step's cause of a change (10_state.md R26, R27). -/
theorem step_error_code (h : s.err = false ↔ s.errCode = 0b00) : t.err = false ↔ t.errCode = 0b00 := by
  obtain ⟨hreset, hreject, hclear, hkeep, hnone, -⟩ := errorRecordKeepsTheFirstError s t hstep
  cases hr : s.nextInput.rst with
  | true => obtain ⟨herr, hcode⟩ := hreset hr; simp [herr, hcode]
  | false =>
    cases ha : accepted s.nextInput s with
    | none => obtain ⟨herr, hcode⟩ := hnone hr ha; rwa [herr, hcode]
    | some i =>
      cases hrej : rejection i with
      | some c =>
        obtain ⟨herr, hcode⟩ := hreject i c ha hrej
        have hne : t.errCode ≠ 0b00 := by
          rw [hcode]
          split
          next hset => exact fun hzero => by rw [h.mpr hzero] at hset; cases hset
          next => exact c.code_ne_zero
        simpa [herr] using hne
      | none =>
        cases hc : clearsError i with
        | true => obtain ⟨herr, hcode⟩ := hclear i ha hrej hc; simp [herr, hcode]
        | false => obtain ⟨herr, hcode⟩ := hkeep i ha hrej hc; rwa [herr, hcode]

/-- PORT keeps to the three patterns (41_serializer.md R88). -/
theorem step_port_pattern (h : s.port = Config.pReset ∨ s.port = Config.pOne ∨ s.port = Config.pZero) :
    t.port = Config.pReset ∨ t.port = Config.pOne ∨ t.port = Config.pZero := by
  obtain ⟨hwrites, hw0, hw1, hkeep⟩ := portWritesOnlyAtSerializerWrites s t hstep
  cases hwe : t.portWe with
  | true =>
    obtain ⟨-, -, hp | hp⟩ := hwrites.mp hwe
    · exact .inl (hw0 hwe hp)
    · rw [hw1 hwe hp]
      split
      · exact .inr (.inl rfl)
      · exact .inr (.inr rfl)
  | false =>
    cases hr : s.nextInput.rst with
    | true => rw [step_eq_reset hstep hr]; exact .inl rfl
    | false => rwa [hkeep hwe hr]

theorem step_recordsSound (h : RecordsSound s) : RecordsSound t where
  error_code := step_error_code hstep h.error_code
  port_pattern := step_port_pattern hstep h.port_pattern
  response_idle := fun hvalid => by
    obtain ⟨i, ha, hi⟩ := (step_rspValid_iff hstep).mp hvalid
    obtain ⟨-, hm, -⟩ := accepted_eq_some.mp ha
    have hx := exec_of_accepted hstep ha
    obtain ⟨-, hwe, -⟩ := exec_port hx
    exact ⟨(exec_mode_of_singleEdge hx (singleEdge_of_responds hi)).trans hm, hwe⟩
  response_error := fun hvalid herr => by
    obtain ⟨i, ha, hi⟩ := (step_rspValid_iff hstep).mp hvalid
    exact exec_errorResponse (exec_of_accepted hstep ha) hi herr

end

/-! ### The progress of the running command -/

/-- A hold starts and goes on below its delay (41_serializer.md R90). -/
theorem sub_one_toNat_lt {x : Byte} (h : x ≠ 0) : (x - 1).toNat < x.toNat := by
  have hpos : x.toNat ≠ 0 := fun hz => h (BitVec.eq_of_toNat_eq hz)
  have := x.isLt
  rw [BitVec.toNat_sub, show (1 : Byte).toNat = 1 from rfl]
  omega

/-- A scan's next position is in a pass below REPEAT (42_scanner.md R98). -/
theorem scanNext_k_lt {s : State} {p : ScanPos} (hk : s.k.toNat < s.repeatCount.toNat) (h : s.scanNext = some p) :
    p.k.toNat < s.repeatCount.toNat := by
  unfold State.scanNext at h
  split at h
  · cases h; exact hk
  · split at h
    next hpass =>
      cases h
      have hr := s.repeatCount.isLt
      have hnext : (s.k + 1).toNat = s.k.toNat + 1 := BitVec.toNat_add_of_lt (show s.k.toNat + 1 < 2 ^ 8 by omega)
      exact hnext ▸ hpass
    next =>
      split at h
      · cases h; exact Nat.zero_lt_of_lt hk
      · cases h

namespace ProgressSound

variable {s : State}

theorem of_idle (hm : s.mode = .idle) : ProgressSound s := by
  constructor <;> simp [hm]

theorem of_fill (hm : s.mode = .fill) (h : ∀ a : CellAddr, a.toNat < s.fcnt.toNat → s.fb.read a = s.fval) : ProgressSound s := by
  constructor <;> simp [hm]
  exact h

/-- At the start of a pulse only the scan's own facts are at stake. -/
theorem of_w0 (hm : s.mode = .ser) (hp : s.phase = .w0)
    (h : s.src = .scan → s.k.toNat < s.repeatCount.toNat ∧ s.sh = s.fb.read (scanAddr s.i s.j) >>> s.b.toNat) :
    ProgressSound s where
  hold_reset := by simp [hp]
  hold_bit := by simp [hp]
  port_reset := by simp [hp]
  scan_pass := fun _ hsrc => (h hsrc).1
  scan_value := fun _ hsrc => by simpa [State.shifted, hp] using (h hsrc).2
  fill_prefix := by simp [hm]

theorem scanAdvance (hm : s.mode = .ser) (hk : s.k.toNat < s.repeatCount.toNat) : ProgressSound s.scanAdvance := by
  cases hn : s.scanNext with
  | none => rw [scanAdvance_none hn]; exact of_idle rfl
  | some p =>
    rw [scanAdvance_some hn]
    exact of_w0 hm rfl fun _ => ⟨scanNext_k_lt (s := s) hk hn, by simp⟩

/-- At the end of a bit: `b + 1` bits are shifted out (41_serializer.md R88, R89). -/
theorem bitDone (hm : s.mode = .ser)
    (h : s.src = .scan → s.k.toNat < s.repeatCount.toNat ∧ s.sh = s.fb.read (scanAddr s.i s.j) >>> (s.b.toNat + 1)) :
    ProgressSound s.bitDone := by
  by_cases hb : s.b.toNat < 7
  · rw [bitDone_of_lt hb]
    refine of_w0 hm rfl fun hsrc => ?_
    obtain ⟨hk, hsh⟩ := h hsrc
    exact ⟨hk, by rw [nextIndex_toNat hb]; exact hsh⟩
  · have hlast : s.b = 7 := by rwa [index_toNat_lt_seven_iff, not_not] at hb
    rw [bitDone_of_last hlast]
    cases hsrc : s.src with
    | emit => rw [cellDone_emit hsrc]; exact of_idle rfl
    | scan => rw [cellDone_scan hsrc]; exact scanAdvance hm (h hsrc).1

/-- A micro-step of the serializer keeps the progress facts, by its PHASE (41_serializer.md R88). -/
theorem serStep (h : ProgressSound s) (hm : s.mode = .ser) : ProgressSound s.serStep := by
  have hvalue := h.scan_value hm
  cases hp : s.phase with
  | w0 =>
    rw [serStep_w0 hp]
    simp only [State.shifted, hp] at hvalue
    split
    next => exact ⟨by simp, by simp, fun _ _ => rfl, fun _ => h.scan_pass hm, fun _ => hvalue, by simp [hm]⟩
    next hd =>
      exact ⟨fun _ _ => sub_one_toNat_lt hd, by simp, fun _ _ => rfl, fun _ => h.scan_pass hm, fun _ => hvalue, by simp [hm]⟩
  | h0 =>
    have hport := h.port_reset hm (.inl hp)
    have hhold := h.hold_reset hm hp
    rw [serStep_h0 hp]
    simp only [State.shifted, hp] at hvalue
    split
    next => exact ⟨by simp, by simp, fun _ _ => hport, fun _ => h.scan_pass hm, fun _ => hvalue, by simp [hm]⟩
    next hd =>
      refine ⟨fun _ _ => (sub_one_toNat_lt hd).trans hhold, by simp [hp], fun _ _ => hport, fun _ => h.scan_pass hm, fun _ => ?_,
        by simp [hm]⟩
      simpa [State.shifted, hp] using hvalue
  | w1 =>
    rw [serStep_w1 hp]
    simp only [State.shifted, hp] at hvalue
    have hshift (hsrc : s.src = .scan) : s.sh >>> 1 = s.fb.read (scanAddr s.i s.j) >>> (s.b.toNat + 1) := by
      rw [hvalue hsrc, BitVec.shiftRight_add]; rfl
    split
    next => exact bitDone hm fun hsrc => ⟨h.scan_pass hm hsrc, hshift hsrc⟩
    next hd =>
      exact ⟨by simp, fun _ _ => sub_one_toNat_lt hd, by simp, fun _ => h.scan_pass hm, fun _ => hshift, by simp [hm]⟩
  | h1 =>
    have hhold := h.hold_bit hm hp
    rw [serStep_h1 hp]
    simp only [State.shifted, hp] at hvalue
    split
    next => exact bitDone hm fun hsrc => ⟨h.scan_pass hm hsrc, hvalue hsrc⟩
    next hd =>
      refine ⟨by simp [hp], fun _ _ => (sub_one_toNat_lt hd).trans hhold, by simp [hp], fun _ => h.scan_pass hm, fun _ => ?_,
        by simp [hm]⟩
      simpa [State.shifted, hp] using hvalue

/-- A FILL step adds cell FCNT to the written cells (40_framebuffer.md R78). -/
theorem fillStep (h : ProgressSound s) (hm : s.mode = .fill) (hwf : s.fb.wf = true) : ProgressSound s.fillStep := by
  rw [fillStep_eq]
  by_cases hlast : s.fcnt.toNat = 63
  · simp only [hlast, if_true]
    exact of_idle rfl
  · simp only [hlast, if_false]
    refine of_fill hm fun a ha => ?_
    have hf := s.fcnt.isLt
    have hnext : (s.fcnt + 1).toNat = s.fcnt.toNat + 1 := BitVec.toNat_add_of_lt (show s.fcnt.toNat + 1 < 2 ^ 6 by omega)
    by_cases heq : a = s.fcnt
    · rw [heq]; exact Memory.read_write_eq hwf _ _
    · have hlt : a.toNat < s.fcnt.toNat := by
        have hne : a.toNat ≠ s.fcnt.toNat := fun e => heq (BitVec.eq_of_toNat_eq e)
        have hle : a.toNat < s.fcnt.toNat + 1 := hnext ▸ ha
        omega
      exact (Memory.read_write_ne s.fb s.fval heq).trans (h.fill_prefix hm a hlt)

/-- A command starts with nothing done yet (40_framebuffer.md R77, 41_serializer.md R84, 42_scanner.md R96). -/
theorem exec {i : Instr} {t : State} (hm : s.mode = .idle) (hx : Machine.exec i s = .next t) : ProgressSound t := by
  cases effect_of_exec hx with
  | startFill v => exact of_fill rfl (by simp)
  | startEmit v => exact of_w0 rfl rfl (by simp)
  | startScan hz =>
    have hpos : s.repeatCount.toNat ≠ 0 := fun h => hz (BitVec.eq_of_toNat_eq h)
    exact of_w0 rfl rfl fun _ => ⟨Nat.pos_of_ne_zero hpos, by simp⟩
  | _ => exact of_idle hm

/-- The edge's defaults and the used-up input touch nothing of the progress facts. -/
theorem edgeStart (h : ProgressSound s) : ProgressSound s.popInput.edgeDefaults :=
  ⟨h.hold_reset, h.hold_bit, h.port_reset, h.scan_pass, h.scan_value, h.fill_prefix⟩

end ProgressSound

theorem step_progressSound {s t : State} (hstep : step s = .next t) (hwf : s.fb.wf = true) (h : ProgressSound s) :
    ProgressSound t := by
  obtain ⟨-, rfl⟩ | ⟨-, hm, i, -, hx⟩ | ⟨-, hm, -, rfl⟩ | ⟨-, hm, rfl⟩ | ⟨-, hm, rfl⟩ := step_mode_cases hstep
  · exact .of_idle rfl
  · exact .exec (s := s.popInput.edgeDefaults) hm hx
  · exact .of_idle hm
  · exact .fillStep h.edgeStart hm hwf
  · exact .serStep h.edgeStart hm

/-! ### The obligations on invariants -/

/-- Every step keeps the framebuffer's canonical form: reset empties the list, and else port A's write keeps it. -/
theorem step_wf {s t : State} (hwf : s.fb.wf = true) (h : step s = .next t) : t.fb.wf = true := by
  cases hr : s.nextInput.rst with
  | true => rw [step_eq_reset h hr]; rfl
  | false => rw [step_fb h hr]; exact PortReq.commit_wf hwf _

/-- Settles O54: see `step_wf`. -/
theorem stepKeepsTheCanonicalFramebuffer : Obligations.StepKeepsTheCanonicalFramebuffer := by
  unfold Obligations.StepKeepsTheCanonicalFramebuffer
  exact fun s t => step_wf

/-- Settles O53: the reset state is idle with empty records. -/
theorem resetMeetsTheInvariant : Obligations.ResetMeetsTheInvariant where
  fb_canonical := rfl
  records := ⟨by decide, .inl rfl, by decide, by decide⟩
  progress := .of_idle rfl

/-- Settles O55: each of the invariant's three parts by its own step lemma. -/
theorem stepKeepsTheInvariant : Obligations.StepKeepsTheInvariant := by
  unfold Obligations.StepKeepsTheInvariant
  intro s t hinv hstep
  exact ⟨step_wf hinv.fb_canonical hstep, step_recordsSound hstep hinv.records,
    step_progressSound hstep hinv.fb_canonical hinv.progress⟩

/-- Settles O56: `Memory.eq_of_read_eq`, along both lists, whose first addresses must be the same. -/
theorem framebufferIsItsCells : Obligations.FramebufferIsItsCells := by
  unfold Obligations.FramebufferIsItsCells
  exact fun m m' hm hm' hread => Memory.eq_of_read_eq hm hm' hread

end Sys2Proof.Machine

/-! ## Hidden state that a mode does not read (10_state.md R30 to R33) -/

namespace Sys2Proof.Machine

/-! A FILL step by the cell it writes (40_framebuffer.md R78). -/

theorem fillStep_last {s : State} (h : s.fcnt.toNat = 63) : s.fillStep = { s.hostWrite s.fcnt s.fval with mode := .idle } := if_pos h

theorem fillStep_next {s : State} (h : s.fcnt.toNat ≠ 63) :
    s.fillStep = { s.hostWrite s.fcnt s.fval with fcnt := s.fcnt + 1 } := if_neg h

namespace LookAlike

variable {s t : State}

/-! ### The state's operations keep states alike -/

theorem edgeStart (h : LookAlike s t) : LookAlike s.popInput.edgeDefaults t.popInput.edgeDefaults :=
  { h with portWe := rfl, rspValid := rfl, response := by simp, inputs := congrArg List.tail h.inputs }

theorem hostWrite (h : LookAlike s t) (a : CellAddr) (v : Byte) : LookAlike (s.hostWrite a v) (t.hostWrite a v) :=
  { h with fb := congrArg (Memory.write · a v) h.fb }

theorem respond (h : LookAlike s t) (e : Bool) (d : Byte) : LookAlike (s.respond e d) (t.respond e d) :=
  { h with rspValid := rfl, response := fun _ => ⟨rfl, rfl⟩ }

theorem clearError (h : LookAlike s t) : LookAlike s.clearError t.clearError :=
  { h with err := rfl, errCode := rfl }

theorem raiseError (h : LookAlike s t) (c : ErrorCause) : LookAlike (s.raiseError c) (t.raiseError c) := by
  rw [raiseError_eq, raiseError_eq]
  exact { h with err := rfl, errCode := by simp only [h.err, h.errCode] }

theorem statusWrite (h : LookAlike s t) (v : Byte) : LookAlike (s.statusWrite v) (t.statusWrite v) := by
  cases hv : v.getLsbD 1 with
  | true => rw [statusWrite_set hv, statusWrite_set hv]; exact h.clearError
  | false => rw [statusWrite_clear hv, statusWrite_clear hv]; exact h

theorem configRead (h : LookAlike s t) (r : ConfigReg) : s.configRead r = t.configRead r := by
  cases r with
  | repeatReg => exact h.repeatCount
  | dlyRst => exact h.dlyRst
  | dlyBit => exact h.dlyBit
  | status => simp only [State.configRead, State.statusByte, State.busy, h.mode, h.err, h.errCode]
  | patOne | patZero => rfl

/-- Going to IDLE makes the hidden state of every command unread. -/
theorem toIdle (h : LookAlike s t) : LookAlike { s with mode := .idle } { t with mode := .idle } :=
  { h with
    mode := rfl, filling := by simp, serializing := by simp, scanning := by simp }

protected theorem refl (s : State) : LookAlike s s := by
  constructor <;> simp

/-! ### A command (10_state.md R36) -/

theorem exec (h : LookAlike s t) {i : Instr} {s' t' : State} (hs : Machine.exec i s = .next s')
    (ht : Machine.exec i t = .next t') : LookAlike s' t' := by
  cases hrej : rejection i with
  | some c =>
    rw [exec_of_rejection hrej] at hs ht
    cases hs; cases ht
    split
    · exact (h.raiseError c).respond true 0x00
    · exact h.raiseError c
  | none =>
    cases i with
    | nop => cases hs; cases ht; exact h
    | wr r c v =>
      have hin : inRange r c = true := by simpa [rejection] using hrej
      rw [exec_wr_of_inRange hin] at hs ht
      cases hs; cases ht
      exact h.hostWrite (addr r c) v
    | rd r c =>
      have hin : inRange r c = true := by simpa [rejection] using hrej
      rw [exec_rd_of_inRange hin] at hs ht
      cases hs; cases ht
      rw [h.fb]
      exact h.respond false _
    | fill v =>
      cases hs; cases ht
      exact { h with mode := rfl, filling := fun _ => ⟨rfl, rfl⟩, serializing := by simp, scanning := by simp }
    | emit v =>
      cases hs; cases ht
      exact { h with
        mode := rfl, filling := by simp, serializing := fun _ => ⟨rfl, rfl, rfl, rfl, rfl⟩, scanning := by simp }
    | refresh =>
      by_cases hz : s.repeatCount = 0
      · rw [exec_refresh_of_zero hz] at hs
        rw [exec_refresh_of_zero (h.repeatCount ▸ hz)] at ht
        cases hs; cases ht; exact h
      · rw [exec_refresh_of_ne_zero hz] at hs
        rw [exec_refresh_of_ne_zero (h.repeatCount ▸ hz)] at ht
        cases hs; cases ht
        exact { h with
          mode := rfl, filling := by simp
          serializing := fun _ => ⟨rfl, congrArg (Memory.read · _) h.fb, rfl, rfl, rfl⟩
          scanning := fun _ _ => ⟨rfl, rfl, rfl⟩ }
    | cfgw sel v =>
      have hsel : sel.toNat < 4 := by simpa [rejection] using hrej
      obtain ⟨rfl, rfl⟩ | ⟨rfl, rfl⟩ | ⟨rfl, rfl⟩ | ⟨rfl, rfl⟩ | ⟨hge, -⟩ := exec_cfgw_cases hs
      · cases ht; exact { h with repeatCount := rfl }
      · cases ht; exact { h with dlyRst := rfl }
      · cases ht; exact { h with dlyBit := rfl }
      · cases ht; exact h.statusWrite v
      · omega
    | cfgr sel =>
      cases hc : configReg sel with
      | some r =>
        rw [exec_cfgr_of_some hc] at hs ht
        cases hs; cases ht
        rw [h.configRead r]
        exact h.respond false _
      | none =>
        have hlt : sel.toNat < 6 := by simpa [rejection] using hrej
        exact absurd (configReg_eq_none_iff.mp hc) (by omega)
    | illegal => cases hrej

/-! ### An edge of a running command -/

theorem fillStep (h : LookAlike s t) (hm : s.mode = .fill) : LookAlike s.fillStep t.fillStep := by
  obtain ⟨hf, hv⟩ := h.filling hm
  have hw : LookAlike (s.hostWrite s.fcnt s.fval) (t.hostWrite t.fcnt t.fval) := by
    rw [← hf, ← hv]; exact h.hostWrite s.fcnt s.fval
  by_cases hlast : s.fcnt.toNat = 63
  · rw [fillStep_last hlast, fillStep_last (hf ▸ hlast)]
    exact hw.toIdle
  · rw [fillStep_next hlast, fillStep_next (hf ▸ hlast)]
    exact { hw with filling := fun _ => ⟨congrArg (· + 1) hf, hv⟩ }

theorem scanNext (h : LookAlike s t) (hm : s.mode = .ser) (hsrc : s.src = .scan) : s.scanNext = t.scanNext := by
  obtain ⟨hi, hk, hj⟩ := h.scanning hm hsrc
  simp only [State.scanNext, hi, hk, hj, h.repeatCount]

theorem cellDone (h : LookAlike s t) (hm : s.mode = .ser) : LookAlike s.cellDone t.cellDone := by
  obtain ⟨hsrc, -⟩ := h.serializing hm
  cases hs : s.src with
  | emit =>
    rw [cellDone_emit hs, cellDone_emit (hsrc ▸ hs)]
    exact h.toIdle
  | scan =>
    have hnext := h.scanNext hm hs
    rw [cellDone_scan hs, cellDone_scan (hsrc ▸ hs)]
    cases hn : s.scanNext with
    | none =>
      rw [scanAdvance_none hn, scanAdvance_none (hnext ▸ hn)]
      exact h.toIdle
    | some p =>
      rw [scanAdvance_some hn, scanAdvance_some (hnext ▸ hn)]
      exact { h with
        serializing := fun _ => ⟨hsrc, congrArg (Memory.read · _) h.fb, rfl, rfl, rfl⟩
        scanning := fun _ _ => ⟨rfl, rfl, rfl⟩ }

theorem bitDone (h : LookAlike s t) (hm : s.mode = .ser) : LookAlike s.bitDone t.bitDone := by
  obtain ⟨hsrc, hsh, hb, -, hd⟩ := h.serializing hm
  by_cases hlt : s.b.toNat < 7
  · rw [bitDone_of_lt hlt, bitDone_of_lt (hb ▸ hlt)]
    exact { h with serializing := fun _ => ⟨hsrc, hsh, congrArg (· + 1) hb, rfl, hd⟩ }
  · have hlast : s.b = 7 := by rwa [index_toNat_lt_seven_iff, not_not] at hlt
    rw [bitDone_of_last hlast, bitDone_of_last (hb ▸ hlast)]
    exact h.cellDone hm

theorem serStep (h : LookAlike s t) (hm : s.mode = .ser) : LookAlike s.serStep t.serStep := by
  obtain ⟨hsrc, hsh, hb, hp, hd⟩ := h.serializing hm
  cases hs : s.phase with
  | w0 =>
    rw [serStep_w0 hs, serStep_w0 (hp ▸ hs)]
    by_cases hz : s.dlyRst = 0
    · rw [if_pos hz, if_pos (h.dlyRst ▸ hz)]
      exact { h with port := rfl, portWe := rfl, serializing := fun _ => ⟨hsrc, hsh, hb, rfl, hd⟩ }
    · rw [if_neg hz, if_neg (h.dlyRst ▸ hz)]
      exact { h with
        port := rfl, portWe := rfl, serializing := fun _ => ⟨hsrc, hsh, hb, rfl, congrArg (· - 1) h.dlyRst⟩ }
  | h0 =>
    rw [serStep_h0 hs, serStep_h0 (hp ▸ hs)]
    by_cases hz : s.dcnt = 0
    · rw [if_pos hz, if_pos (hd ▸ hz)]
      exact { h with serializing := fun _ => ⟨hsrc, hsh, hb, rfl, hd⟩ }
    · rw [if_neg hz, if_neg (hd ▸ hz)]
      exact { h with serializing := fun _ => ⟨hsrc, hsh, hb, hp, congrArg (· - 1) hd⟩ }
  | w1 =>
    rw [serStep_w1 hs, serStep_w1 (hp ▸ hs), ← hsh]
    by_cases hz : s.dlyBit = 0
    · rw [if_pos hz, if_pos (h.dlyBit ▸ hz)]
      refine LookAlike.bitDone ?_ hm
      exact { h with port := rfl, portWe := rfl, serializing := fun _ => ⟨hsrc, rfl, hb, hp, hd⟩ }
    · rw [if_neg hz, if_neg (h.dlyBit ▸ hz)]
      exact { h with
        port := rfl, portWe := rfl, serializing := fun _ => ⟨hsrc, rfl, hb, rfl, congrArg (· - 1) h.dlyBit⟩ }
  | h1 =>
    rw [serStep_h1 hs, serStep_h1 (hp ▸ hs)]
    by_cases hz : s.dcnt = 0
    · rw [if_pos hz, if_pos (hd ▸ hz)]
      exact h.bitDone hm
    · rw [if_neg hz, if_neg (hd ▸ hz)]
      exact { h with serializing := fun _ => ⟨hsrc, hsh, hb, hp, congrArg (· - 1) hd⟩ }

/-! ### Any edge, and any number of them -/

theorem nextInput (h : LookAlike s t) : s.nextInput = t.nextInput := by
  simp only [State.nextInput, h.inputs]

theorem step (h : LookAlike s t) {s' t' : State} (hs : Machine.step s = .next s') (ht : Machine.step t = .next t') :
    LookAlike s' t' := by
  have hedge : edge s.nextInput t.popInput = .next t' := by rw [h.nextInput]; exact ht
  have hstart := h.edgeStart
  obtain ⟨hr, rfl⟩ | ⟨hr, hm, hv, hx⟩ | ⟨hr, hm, hv, rfl⟩ | ⟨hr, hm, rfl⟩ | ⟨hr, hm, rfl⟩ := edge_cases hs
  · rw [edge_rst hr] at hedge
    cases hedge
    exact { LookAlike.refl State.reset with inputs := congrArg List.tail h.inputs }
  · rw [edge_idle_accept hr (h.mode ▸ hm) hv] at hedge
    exact hstart.exec hx hedge
  · rw [edge_idle_quiet hr (h.mode ▸ hm) hv] at hedge
    cases hedge; exact hstart
  · rw [edge_fill hr (h.mode ▸ hm)] at hedge
    cases hedge; exact hstart.fillStep hm
  · rw [edge_ser hr (h.mode ▸ hm)] at hedge
    cases hedge; exact hstart.serStep hm

/-- One edge's port write and response are the same from states alike. -/
theorem observation (h : LookAlike s t) (e : Nat) :
    (if s.portWe then [(e, s.port)] else []) = (if t.portWe then [(e, t.port)] else []) ∧
    (if s.rspValid then [(e, s.rspErr, s.rspData)] else []) = (if t.rspValid then [(e, t.rspErr, t.rspData)] else []) := by
  refine ⟨by rw [h.portWe, h.port], ?_⟩
  cases hv : s.rspValid with
  | false => rw [← h.rspValid, hv]; rfl
  | true =>
    obtain ⟨herr, hdata⟩ := h.response hv
    rw [← h.rspValid, hv, herr, hdata]

end LookAlike

/-! ### The obligation -/

/-- Settles O57, by induction on the number of edges, each of which keeps states alike. -/
theorem unreadHiddenStateIsUnobservable : Obligations.UnreadHiddenStateIsUnobservable := by
  unfold Obligations.UnreadHiddenStateIsUnobservable
  intro s s' e n h
  induction n generalizing s s' e with
  | zero => exact ⟨rfl, rfl, s, s', rfl, rfl, h⟩
  | succ n ih =>
    obtain ⟨u, hu⟩ := step_next s
    obtain ⟨u', hu'⟩ := step_next s'
    have halike : LookAlike u u' := h.step hu hu'
    obtain ⟨hport, hrsp⟩ := halike.observation e
    obtain ⟨hports, hrsps, hruns⟩ := ih u u' (e + 1) halike
    rw [portWrites_succ e n hu, portWrites_succ e n hu', responses_succ e n hu, responses_succ e n hu', run_succ n hu,
      run_succ n hu', hport, hrsp, hports, hrsps]
    exact ⟨rfl, rfl, hruns⟩

end Sys2Proof.Machine

/-! ## The port writes of EMIT and REFRESH (41_serializer.md, 42_scanner.md) -/

namespace Sys2Proof.Machine

/-! ### What a serialization leaves alone -/

/-- FB, the configuration and the error record of two states are the same. -/
structure SameRegisters (s t : State) : Prop where
  fb : t.fb = s.fb
  repeatCount : t.repeatCount = s.repeatCount
  dlyRst : t.dlyRst = s.dlyRst
  dlyBit : t.dlyBit = s.dlyBit
  err : t.err = s.err
  errCode : t.errCode = s.errCode

/-- Also the running command and the scan's position are the same: what the pulses of one value leave alone. -/
structure SameCommand (s t : State) : Prop extends SameRegisters s t where
  mode : t.mode = s.mode
  src : t.src = s.src
  i : t.i = s.i
  k : t.k = s.k
  j : t.j = s.j

section
variable {s t u : State}

theorem SameRegisters.refl (s : State) : SameRegisters s s := ⟨rfl, rfl, rfl, rfl, rfl, rfl⟩

theorem SameRegisters.trans (h : SameRegisters s t) (h' : SameRegisters t u) : SameRegisters s u :=
  ⟨h'.fb.trans h.fb, h'.repeatCount.trans h.repeatCount, h'.dlyRst.trans h.dlyRst, h'.dlyBit.trans h.dlyBit,
    h'.err.trans h.err, h'.errCode.trans h.errCode⟩

theorem SameRegisters.pulseEdges (h : SameRegisters s t) : t.pulseEdges = s.pulseEdges := by
  simp only [State.pulseEdges, h.dlyRst, h.dlyBit]

theorem SameCommand.refl (s : State) : SameCommand s s := ⟨.refl s, rfl, rfl, rfl, rfl, rfl⟩

theorem SameCommand.trans (h : SameCommand s t) (h' : SameCommand t u) : SameCommand s u :=
  ⟨h.toSameRegisters.trans h'.toSameRegisters, h'.mode.trans h.mode, h'.src.trans h.src, h'.i.trans h.i, h'.k.trans h.k,
    h'.j.trans h.j⟩

theorem SameCommand.afterPulse (s : State) : SameCommand s s.afterPulse :=
  ⟨⟨rfl, rfl, rfl, rfl, rfl, rfl⟩, rfl, rfl, rfl, rfl, rfl⟩

end

/-! ### One value: eight pulses (41_serializer.md R91, R93) -/

/-- In `u` the serializer that started with the value of `s` has put out `n` bits and starts the next pulse. -/
structure AtBit (n : Nat) (s u : State) : Prop where
  frame : SameCommand s u
  phase : u.phase = .w0
  bit : u.b.toNat = n
  value : u.sh = s.sh >>> n
  inputs : u.inputs = s.inputs.drop (n * s.pulseEdges)

/-- A list built from 0 to n by `List.range` grows at its end. -/
theorem flatMap_range_succ {α : Type} (f : Nat → List α) (n : Nat) :
    (List.range (n + 1)).flatMap f = (List.range n).flatMap f ++ f n := by
  simp [List.range_succ]

theorem AtBit.succ {s u : State} {n : Nat} (hu : AtBit n s u) (hn : n < 7) : AtBit (n + 1) s u.afterPulse.bitDone := by
  have hb : u.afterPulse.b.toNat < 7 := by rw [← hu.bit] at hn; exact hn
  rw [bitDone_of_lt hb]
  refine ⟨?_, rfl, ?_, ?_, ?_⟩
  · have h := hu.frame.trans (.afterPulse u)
    exact ⟨⟨h.fb, h.repeatCount, h.dlyRst, h.dlyBit, h.err, h.errCode⟩, h.mode, h.src, h.i, h.k, h.j⟩
  · exact (nextIndex_toNat hb).trans (congrArg (· + 1) hu.bit)
  · show u.sh >>> 1 = s.sh >>> (n + 1)
    rw [hu.value, BitVec.shiftRight_add]
  · calc u.inputs.drop u.pulseEdges
      _ = (s.inputs.drop (n * s.pulseEdges)).drop s.pulseEdges := by rw [hu.inputs, hu.frame.pulseEdges]
      _ = s.inputs.drop ((n + 1) * s.pulseEdges) := by rw [List.drop_drop, Nat.succ_mul]

section
variable {s : State} (p : Nat) (hm : s.mode = .ser)
include hm

/-- The pulse of bit `n`, T edges long. -/
theorem bit_stretch {u : State} {n : Nat} (hu : AtBit n s u) (hr : noReset (n * s.pulseEdges + s.pulseEdges) s = true) :
    Stretch .ser (p + 1 + n * s.pulseEdges) s.pulseEdges u u.afterPulse.bitDone
      (pulseWrites s.dlyRst (p + n * s.pulseEdges) (s.sh.getLsbD n)) := by
  have hT : u.pulseEdges = s.pulseEdges := hu.frame.pulseEdges
  have hbit : u.sh.getLsbD 0 = s.sh.getLsbD n := by rw [hu.value, BitVec.getLsbD_ushiftRight, Nat.add_zero]
  have hpulse := pulse_stretch (p + n * s.pulseEdges) (hu.frame.mode.trans hm) hu.phase
    (by rw [hT]; exact noReset_drop hr hu.inputs)
  rwa [hT, hbit, hu.frame.dlyRst, Nat.add_right_comm] at hpulse

/-- The first `n` pulses of a value, at most seven of them. -/
theorem bits_stretch (hp : s.phase = .w0) (hb : s.b = 0) {n : Nat} (hn : n ≤ 7) (hr : noReset (n * s.pulseEdges) s = true) :
    ∃ u, AtBit n s u ∧ Stretch .ser (p + 1) (n * s.pulseEdges) s u
      ((List.range n).flatMap fun m => pulseWrites s.dlyRst (p + m * s.pulseEdges) (s.sh.getLsbD m)) := by
  induction n with
  | zero =>
    refine ⟨s, ⟨.refl s, hp, by simp [hb], by simp, by simp⟩, ?_⟩
    rw [Nat.zero_mul]; exact .nil .ser _ s
  | succ n ih =>
    rw [Nat.succ_mul] at hr ⊢
    obtain ⟨u, hu, hstretch⟩ := ih (by omega) (noReset_le hr (Nat.le_add_right _ _))
    rw [flatMap_range_succ]
    exact ⟨_, hu.succ (by omega), hstretch.append (bit_stretch p hm hu hr)⟩

/-- All eight pulses of a value loaded at edge p: 8·T edges, up to the end of the cell. -/
theorem serialize_stretch (hp : s.phase = .w0) (hb : s.b = 0) (hr : noReset (8 * s.pulseEdges) s = true) :
    ∃ u, SameCommand s u ∧ u.port = pattern (s.sh.getLsbD 7) ∧ u.inputs = s.inputs.drop (8 * s.pulseEdges) ∧
      Stretch .ser (p + 1) (8 * s.pulseEdges) s u.cellDone (serialWrites s.dlyRst s.dlyBit p s.sh) := by
  have hsplit : 8 * s.pulseEdges = 7 * s.pulseEdges + s.pulseEdges := Nat.succ_mul 7 s.pulseEdges
  rw [hsplit] at hr ⊢
  obtain ⟨u, hu, hstretch⟩ := bits_stretch p hm hp hb (Nat.le_refl 7) (noReset_le hr (Nat.le_add_right _ _))
  have hlast : u.afterPulse.b = 7 := BitVec.eq_of_toNat_eq hu.bit
  have hwhole := hstretch.append (bit_stretch p hm hu hr)
  rw [← flatMap_range_succ, bitDone_of_last hlast] at hwhole
  refine ⟨u.afterPulse, hu.frame.trans (.afterPulse u), ?_, ?_, hwhole⟩
  · rw [State.afterPulse, hu.value, BitVec.getLsbD_ushiftRight]
  · rw [State.afterPulse, hu.inputs, hu.frame.pulseEdges, List.drop_drop]

end

/-! ### The accepting edge and the busy edges after it -/

/-- `t` follows `s` by an edge that accepts a command and loads the serializer with `v` (41_serializer.md R85). -/
structure Started (src : Source) (v : Byte) (s t : State) : Prop where
  frame : SameRegisters s t
  mode : t.mode = .ser
  src : t.src = src
  value : t.sh = v
  bit : t.b = 0
  phase : t.phase = .w0
  hold : t.dcnt = 0
  portWe : t.portWe = false
  rspValid : t.rspValid = false
  inputs : t.inputs = s.inputs.tail

theorem Started.noReset {src : Source} {v : Byte} {s t : State} {n : Nat} (h : Started src v s t)
    (hr : noReset (1 + n) s = true) : noReset n t = true := by
  rw [Nat.add_comm] at hr
  exact noReset_of_inputs hr h.inputs

theorem step_emit_accepted {s : State} {w : Word} {v : Byte} {rest : List EdgeInput} (hm : s.mode = .idle)
    (hi : s.inputs = .offer w :: rest) (hw : decode w = .emit v) : ∃ t, step s = .next t ∧ Started .emit v s t := by
  rw [step_accept hm hi, hw]
  exact ⟨_, rfl, ⟨rfl, rfl, rfl, rfl, rfl, rfl⟩, rfl, rfl, rfl, rfl, rfl, rfl, rfl, rfl, by rw [hi]; rfl⟩

/-- The run of an accepting edge numbered `e` and the busy edges after it. -/
theorem run_after_start {s t u : State} {src : Source} {v : Byte} {e n : Nat} {ws : List (Nat × Byte)} (h : step s = .next t)
    (hstart : Started src v s t) (hbusy : Stretch .ser (e + 1) n t u ws) :
    Sys2Proof.core.run (1 + n) s = .next u ∧
    (∀ m : Nat, 1 ≤ m → m ≤ n → ∃ v : State, Sys2Proof.core.run m s = .next v ∧ v.mode = .ser) ∧
    portWrites e (1 + n) s = ws ∧ responses e (1 + n) s = [] := by
  rw [Nat.add_comm 1 n]
  refine ⟨?_, fun m hm hmn => ?_, ?_, ?_⟩
  · rw [run_succ n h, hbusy.reaches]
  · obtain ⟨k, rfl⟩ : ∃ k, m = k + 1 := ⟨m - 1, by omega⟩
    rw [run_succ k h]
    exact hbusy.busy k (by omega)
  · rw [portWrites_succ e n h, hstart.portWe, hbusy.writes]; rfl
  · rw [responses_succ e n h, hstart.rspValid, hbusy.silent]; rfl

/-! ### EMIT (41_serializer.md R91, R93, R94) -/

/-- The port's values do not depend on the delays (41_serializer.md R90). -/
theorem serialWrites_values (dlyRst dlyBit : Byte) (p : Nat) (v : Byte) :
    (serialWrites dlyRst dlyBit p v).map Prod.snd = (List.range 8).flatMap fun n => [Config.pReset, pattern (v.getLsbD n)] := by
  simp [serialWrites, pulseWrites, List.map_flatMap]

/-- Settles O42: the accepting edge, then the eight pulses of the value up to the end of the command. -/
theorem emitWritesEightPulsesLsbFirst : Obligations.EmitWritesEightPulsesLsbFirst := by
  unfold Obligations.EmitWritesEightPulsesLsbFirst
  intro s w v rest e hm hi hw hr
  obtain ⟨t, ht, hstart⟩ := step_emit_accepted hm hi hw
  have hT : t.pulseEdges = s.pulseEdges := hstart.frame.pulseEdges
  obtain ⟨u, hframe, hport, hinputs, hstretch⟩ :=
    serialize_stretch e hstart.mode hstart.phase hstart.bit (by rw [hT]; exact hstart.noReset hr)
  rw [cellDone_emit (hframe.src.trans hstart.src), hT, hstart.value, hstart.frame.dlyRst, hstart.frame.dlyBit] at hstretch
  obtain ⟨hrun, hbusy, hwrites, hrsp⟩ := run_after_start ht hstart hstretch
  obtain ⟨hfb, hrep, hrst, hbit, herr, hcode⟩ := hstart.frame.trans hframe.toSameRegisters
  refine ⟨⟨_, hrun, rfl, ?_, hfb, hrep, hrst, hbit, herr, hcode, ?_⟩, hbusy, hwrites, hrsp⟩
  · rw [← hstart.value]; exact hport
  · rw [← hT]; exact hinputs.trans (by rw [hstart.inputs, hi]; rfl)

/-- Settles O43: both EMITs make the writes of their timing laws, whose values are those of the word's bits. -/
theorem delaysKeepValuesAndOrder : Obligations.DelaysKeepValuesAndOrder := by
  unfold Obligations.DelaysKeepValuesAndOrder
  intro s s' w v rest rest' e hm hm' hi hi' hw hr hr'
  obtain ⟨-, -, hwrites, -⟩ := emitWritesEightPulsesLsbFirst s w v rest e hm hi hw hr
  obtain ⟨-, -, hwrites', -⟩ := emitWritesEightPulsesLsbFirst s' w v rest' e hm' hi' hw hr'
  rw [hwrites, hwrites', serialWrites_values, serialWrites_values]

/-! ### The scan's positions, numbered (42_scanner.md R99) -/

/-- The position of serialization `n` of a scan with `R` passes: J the fastest, then K, then I. -/
def scanPos (R n : Nat) : ScanPos :=
  { i := BitVec.ofNat 3 (n / 8 / R), k := BitVec.ofNat 8 (n / 8 % R), j := BitVec.ofNat 3 (n % 8) }

theorem visitCell_eq (R n : Nat) : visitCell R n = scanAddr (scanPos R n).i (scanPos R n).j := by
  rw [visitCell, scanPos, Nat.div_div_eq_div_mul]

theorem scanPos_eq {R i k j : Nat} (hk : k < R) (hj : j < 8) :
    scanPos R (8 * (R * i + k) + j) = { i := BitVec.ofNat 3 i, k := BitVec.ofNat 8 k, j := BitVec.ofNat 3 j } := by
  have hq : (8 * (R * i + k) + j) / 8 = R * i + k := by omega
  have hr : (8 * (R * i + k) + j) % 8 = j := by omega
  have hi : (R * i + k) / R = i := by
    rw [Nat.mul_add_div (by omega), Nat.div_eq_of_lt hk, Nat.add_zero]
  have hk' : (R * i + k) % R = k := by rw [Nat.mul_add_mod, Nat.mod_eq_of_lt hk]
  rw [scanPos, hq, hr, hi, hk']

/-- A serialization's number by its position's indices. -/
theorem exists_scan_indices {R n : Nat} (hn : n < 64 * R) : ∃ i k j, i < 8 ∧ k < R ∧ j < 8 ∧ n = 8 * (R * i + k) + j := by
  have hR : 0 < R := by omega
  refine ⟨n / 8 / R, n / 8 % R, n % 8, ?_, Nat.mod_lt _ hR, Nat.mod_lt _ (by decide), ?_⟩
  · exact (Nat.div_lt_iff_lt_mul hR).mpr (by omega)
  · rw [Nat.div_add_mod, Nat.div_add_mod]

/-- The scan goes through its positions in the order of their numbers, and ends after number `64·R - 1` (42_scanner.md R98, R99). -/
theorem scanNext_scanPos {s : State} {R n : Nat} (hR : s.repeatCount.toNat = R) (hn : n < 64 * R)
    (hi : s.i = (scanPos R n).i) (hk : s.k = (scanPos R n).k) (hj : s.j = (scanPos R n).j) :
    s.scanNext = if n + 1 < 64 * R then some (scanPos R (n + 1)) else none := by
  have hR8 := s.repeatCount.isLt
  obtain ⟨i, k, j, hi8, hkR, hj8, rfl⟩ := exists_scan_indices hn
  simp only [scanPos_eq hkR hj8] at hi hk hj
  have hkn : s.k.toNat = k := by rw [hk, BitVec.toNat_ofNat]; exact Nat.mod_eq_of_lt (by omega)
  have hcolumns : i < 7 → R * i + R ≤ 7 * R := fun h => by rw [← Nat.mul_succ, Nat.mul_comm]; exact Nat.mul_le_mul_right R h
  have hcolumn : R * i + R ≤ 8 * R := by rw [← Nat.mul_succ, Nat.mul_comm]; exact Nat.mul_le_mul_right R hi8
  obtain hj7 | rfl : j < 7 ∨ j = 7 := by omega
  · have hne : s.j ≠ 7 := by rw [← index_toNat_lt_seven_iff, hj, BitVec.toNat_ofNat]; omega
    rw [scanNext_row hne, if_pos (by omega), Nat.add_assoc, scanPos_eq hkR (by omega), hi, hk, hj, BitVec.ofNat_add]
    rfl
  obtain hpass | hlast : k + 1 < R ∨ R = k + 1 := by omega
  · have hnum : 8 * (R * i + k) + 7 + 1 = 8 * (R * i + (k + 1)) + 0 := by omega
    rw [scanNext_pass hj (by omega), if_pos (by omega), hnum, scanPos_eq hpass (by decide), hi, hk, BitVec.ofNat_add]
    rfl
  obtain hi7 | rfl : i < 7 ∨ i = 7 := by omega
  · have hne : s.i ≠ 7 := by rw [← index_toNat_lt_seven_iff, hi, BitVec.toNat_ofNat]; omega
    have hmore := hcolumns hi7
    have hnum : 8 * (R * i + k) + 7 + 1 = 8 * (R * (i + 1) + 0) + 0 := by rw [Nat.mul_succ]; omega
    rw [scanNext_column hj (by omega) hne, if_pos (by omega), hnum, scanPos_eq (by omega) (by decide), hi, BitVec.ofNat_add]
    rfl
  · rw [scanNext_last hj (by omega) hi, if_neg (by omega)]

/-! ### The scan, one serialization after another (42_scanner.md R99, R104) -/

/-- A scan with `R` passes starts serialization number `n`. -/
structure AtVisit (R n : Nat) (s : State) : Prop where
  mode : s.mode = .ser
  src : s.src = .scan
  phase : s.phase = .w0
  bit : s.b = 0
  passes : s.repeatCount.toNat = R
  i : s.i = (scanPos R n).i
  k : s.k = (scanPos R n).k
  j : s.j = (scanPos R n).j
  value : s.sh = s.fb.read (visitCell R n)

/-- A scan with `R` passes has made `n` serializations: it starts the next one, or it has ended with the last one. -/
structure AfterVisits (R n : Nat) (s : State) : Prop where
  more : n < 64 * R → AtVisit R n s
  done : n = 64 * R → s.mode = .idle

/-- The end of a cell starts the next serialization or ends the scan (42_scanner.md R98). -/
theorem AtVisit.cellDone {R n : Nat} {s u : State} (h : AtVisit R n s) (hn : n < 64 * R) (hu : SameCommand s u) :
    SameRegisters s u.cellDone ∧ u.cellDone.inputs = u.inputs ∧ AfterVisits R (n + 1) u.cellDone := by
  have hpasses : u.repeatCount.toNat = R := by rw [hu.repeatCount, h.passes]
  have hnext := scanNext_scanPos hpasses hn (hu.i.trans h.i) (hu.k.trans h.k) (hu.j.trans h.j)
  have hregs : SameRegisters s u := hu.toSameRegisters
  rw [cellDone_scan (hu.src.trans h.src)]
  by_cases hmore : n + 1 < 64 * R
  · rw [if_pos hmore] at hnext
    rw [scanAdvance_some hnext, ← visitCell_eq]
    exact ⟨⟨hregs.fb, hregs.repeatCount, hregs.dlyRst, hregs.dlyBit, hregs.err, hregs.errCode⟩, rfl,
      fun _ => ⟨hu.mode.trans h.mode, hu.src.trans h.src, rfl, rfl, hpasses, rfl, rfl, rfl, rfl⟩, fun hend => by omega⟩
  · rw [if_neg hmore] at hnext
    rw [scanAdvance_none hnext]
    exact ⟨⟨hregs.fb, hregs.repeatCount, hregs.dlyRst, hregs.dlyBit, hregs.err, hregs.errCode⟩, rfl,
      fun hlt => absurd hlt hmore, fun _ => rfl⟩

/-- The first `n` serializations of a scan, 8·T edges each. -/
theorem scan_stretch {R n : Nat} {s : State} (p : Nat) (h : AtVisit R 0 s) (hR : R ≠ 0) (hn : n ≤ 64 * R)
    (hr : noReset (n * (8 * s.pulseEdges)) s = true) :
    ∃ u, SameRegisters s u ∧ u.inputs = s.inputs.drop (n * (8 * s.pulseEdges)) ∧ AfterVisits R n u ∧
      Stretch .ser (p + 1) (n * (8 * s.pulseEdges)) s u ((List.range n).flatMap fun m =>
        serialWrites s.dlyRst s.dlyBit (p + m * (8 * s.pulseEdges)) (s.fb.read (visitCell R m))) := by
  induction n with
  | zero =>
    refine ⟨s, .refl s, by simp, ⟨fun _ => h, fun hend => by omega⟩, ?_⟩
    rw [Nat.zero_mul]; exact .nil .ser _ s
  | succ n ih =>
    rw [Nat.succ_mul] at hr ⊢
    obtain ⟨u, hregs, hinputs, hvisits, hstretch⟩ := ih (by omega) (noReset_le hr (Nat.le_add_right _ _))
    have hu : AtVisit R n u := hvisits.more (by omega)
    have hT : u.pulseEdges = s.pulseEdges := hregs.pulseEdges
    obtain ⟨v, hframe, -, hvin, hcell⟩ := serialize_stretch (p + n * (8 * s.pulseEdges)) hu.mode hu.phase hu.bit
      (by rw [hT]; exact noReset_drop hr hinputs)
    obtain ⟨hregs', hin', hvisits'⟩ := hu.cellDone (by omega) hframe
    rw [hT, hregs.dlyRst, hregs.dlyBit, hu.value, hregs.fb, Nat.add_right_comm] at hcell
    refine ⟨v.cellDone, hregs.trans hregs', ?_, hvisits', ?_⟩
    · rw [hin', hvin, hinputs, hT, List.drop_drop]
    · rw [flatMap_range_succ]; exact hstretch.append hcell

/-- The edge that accepts a REFRESH with REPEAT not 0 starts serialization 0. -/
theorem step_refresh_accepted {s : State} {w : Word} {rest : List EdgeInput} (hm : s.mode = .idle) (hz : s.repeatCount ≠ 0)
    (hi : s.inputs = .offer w :: rest) (hw : decode w = .refresh) :
    ∃ t, step s = .next t ∧ Started .scan (s.fb.read (scanAddr 0 0)) s t ∧ AtVisit s.repeatCount.toNat 0 t := by
  have hpos : scanPos s.repeatCount.toNat 0 = { i := 0, k := 0, j := 0 } := by simp [scanPos]
  have hcell : visitCell s.repeatCount.toNat 0 = scanAddr 0 0 := by rw [visitCell_eq, hpos]
  have hx := exec_refresh_of_ne_zero (s := { s with portWe := false, rspValid := false, inputs := rest }) hz
  rw [step_accept hm hi, hw, hx]
  refine ⟨_, rfl, ⟨⟨rfl, rfl, rfl, rfl, rfl, rfl⟩, rfl, rfl, rfl, rfl, rfl, rfl, rfl, rfl, by rw [hi]; rfl⟩,
    ⟨rfl, rfl, rfl, rfl, rfl, ?_, ?_, ?_, ?_⟩⟩
  · rw [hpos]
  · rw [hpos]
  · rw [hpos]
  · rw [hcell]; rfl

/-- The edge that accepts a REFRESH with REPEAT = 0 does nothing but its defaults. -/
theorem step_refresh_of_zero {s : State} {w : Word} {rest : List EdgeInput} (hm : s.mode = .idle) (hz : s.repeatCount = 0)
    (hi : s.inputs = .offer w :: rest) (hw : decode w = .refresh) :
    step s = .next { s with portWe := false, rspValid := false, inputs := rest } := by
  rw [step_accept hm hi, hw]
  exact exec_refresh_of_zero hz

theorem portWrites_refresh_of_zero {s : State} {w : Word} {rest : List EdgeInput} (e : Nat) (hm : s.mode = .idle)
    (hz : s.repeatCount = 0) (hi : s.inputs = .offer w :: rest) (hw : decode w = .refresh) : portWrites e 1 s = [] := by
  rw [portWrites_succ e 0 (step_refresh_of_zero hm hz hi hw)]
  rfl

/-- The busy edges of a REFRESH: 64·R serializations of 8·T edges (42_scanner.md R104). -/
theorem scan_edges (R T : Nat) : 512 * R * T = 64 * R * (8 * T) := by
  rw [show 512 * R = 64 * R * 8 by omega, Nat.mul_assoc]

/-- Settles O46: the accepting edge starts serialization 0, and the 64·R serializations follow one another. -/
theorem refreshScansInFixedOrder : Obligations.RefreshScansInFixedOrder := by
  unfold Obligations.RefreshScansInFixedOrder
  intro s w rest e n hm hz hi hw hr
  obtain ⟨t, ht, hstart, hvisit⟩ := step_refresh_accepted hm hz hi hw
  have hn : n = 64 * s.repeatCount.toNat * (8 * t.pulseEdges) := by rw [hstart.frame.pulseEdges]; exact scan_edges _ _
  have hR : s.repeatCount.toNat ≠ 0 := fun h => hz (BitVec.eq_of_toNat_eq h)
  obtain ⟨u, hregs, hinputs, hvisits, hstretch⟩ :=
    scan_stretch e hvisit hR (Nat.le_refl _) (by rw [← hn]; exact hstart.noReset hr)
  rw [← hn] at hinputs hstretch
  rw [hstart.frame.pulseEdges, hstart.frame.dlyRst, hstart.frame.dlyBit, hstart.frame.fb] at hstretch
  obtain ⟨hrun, hbusy, hwrites, hrsp⟩ := run_after_start ht hstart hstretch
  obtain ⟨hfb, hrep, hrst, hbit, herr, hcode⟩ := hstart.frame.trans hregs
  refine ⟨⟨u, hrun, hvisits.done rfl, hfb, hrep, hrst, hbit, herr, hcode, ?_⟩, hbusy, hwrites, hrsp⟩
  rw [hinputs, hstart.inputs, hi]; rfl

theorem serialWrites_length (dlyRst dlyBit : Byte) (p : Nat) (v : Byte) : (serialWrites dlyRst dlyBit p v).length = 16 := rfl

theorem scanWrites_length (s : State) (p : Nat) : (scanWrites s p).length = 1024 * s.repeatCount.toNat := by
  simp only [scanWrites, List.length_flatMap, serialWrites_length, List.map_const', List.length_range, List.sum_replicate,
    smul_eq_mul]
  omega

/-- Settles O47: 64·R serializations of 16 writes each, and for REPEAT = 0 no write. -/
theorem refreshMakes1024WritesPerPass : Obligations.RefreshMakes1024WritesPerPass := by
  unfold Obligations.RefreshMakes1024WritesPerPass
  intro s w rest e n hm hi hw hr
  by_cases hz : s.repeatCount = 0
  · have hn : n = 0 := by simp [n, hz]
    rw [hn, portWrites_refresh_of_zero e hm hz hi hw, hz]; rfl
  · obtain ⟨-, -, hwrites, -⟩ := refreshScansInFixedOrder s w rest e hm hz hi hw hr
    rw [hwrites, scanWrites_length]

/-- Settles O48: the writes of a scan are a function of FB, REPEAT, DLY_RST and DLY_BIT. -/
theorem refreshIsIdempotent : Obligations.RefreshIsIdempotent := by
  unfold Obligations.RefreshIsIdempotent
  intro s t w w' rest rest' e n hm hm' hfb hrep hrst hbit hi hi' hw hw' hr hr'
  have hT : s.pulseEdges = t.pulseEdges := by simp only [State.pulseEdges, hrst, hbit]
  by_cases hz : s.repeatCount = 0
  · have hn : n = 0 := by simp [n, hz]
    rw [hn, portWrites_refresh_of_zero e hm hz hi hw, portWrites_refresh_of_zero e hm' (hrep ▸ hz) hi' hw']
  · have hn : n = 512 * t.repeatCount.toNat * t.pulseEdges := by simp only [n, hrep, hT]
    obtain ⟨-, -, hwrites, -⟩ := refreshScansInFixedOrder s w rest e hm hz hi hw hr
    obtain ⟨-, -, hwrites', -⟩ :=
      refreshScansInFixedOrder t w' rest' e hm' (hrep ▸ hz) hi' hw' (by rw [← hn]; exact hr')
    rw [hwrites, hn, hwrites']
    simp only [scanWrites, hrep, hT, hrst, hbit, hfb]

/-! ### Timing does not depend on the cells (42_scanner.md R101) -/

/-- What the edges of a running serialization depend on: the state with the values of FB, of the port and of SH erased, and all else that
the serializer neither reads nor counts. -/
def State.control (s : State) : State :=
  { s with fb := [], port := 0, sh := 0, err := false, errCode := 0, rspValid := false, rspErr := false, rspData := 0,
           fcnt := 0, fval := 0, inputs := [] }

theorem control_cellDone (s : State) : s.cellDone.control = s.control.cellDone.control := by
  cases hsrc : s.src with
  | emit => rw [cellDone_emit hsrc, cellDone_emit (s := s.control) hsrc]; rfl
  | scan =>
    rw [cellDone_scan hsrc, cellDone_scan (s := s.control) hsrc]
    cases hn : s.scanNext with
    | none => rw [scanAdvance_none hn, scanAdvance_none (s := s.control) hn]; rfl
    | some p => rw [scanAdvance_some hn, scanAdvance_some (s := s.control) hn]; rfl

theorem control_bitDone (s : State) : s.bitDone.control = s.control.bitDone.control := by
  by_cases hb : s.b.toNat < 7
  · rw [bitDone_of_lt hb, bitDone_of_lt (s := s.control) hb]; rfl
  · have hlast : s.b = 7 := by rwa [index_toNat_lt_seven_iff, not_not] at hb
    rw [bitDone_of_last hlast, bitDone_of_last (s := s.control) hlast]
    exact control_cellDone s

theorem control_bitDone_congr {s t : State} (h : s.control = t.control) : s.bitDone.control = t.bitDone.control := by
  rw [control_bitDone, h, ← control_bitDone]

/-- The control state after a micro-step is a function of the control state before it. -/
theorem control_serStep (s : State) : s.serStep.control = s.control.serStep.control := by
  have hrst : s.control.dlyRst = s.dlyRst := rfl
  have hbit : s.control.dlyBit = s.dlyBit := rfl
  have hcnt : s.control.dcnt = s.dcnt := rfl
  cases hp : s.phase with
  | w0 =>
    rw [serStep_w0 hp, serStep_w0 (s := s.control) hp, hrst]
    split <;> rfl
  | h0 =>
    rw [serStep_h0 hp, serStep_h0 (s := s.control) hp, hcnt]
    split <;> rfl
  | w1 =>
    rw [serStep_w1 hp, serStep_w1 (s := s.control) hp, hbit]
    split
    · exact control_bitDone_congr rfl
    · rfl
  | h1 =>
    rw [serStep_h1 hp, serStep_h1 (s := s.control) hp, hcnt]
    split
    · exact control_bitDone s
    · rfl

/-- Every edge uses up one input. -/
theorem step_inputs {s t : State} (h : step s = .next t) : t.inputs = s.inputs.tail := by
  obtain ⟨-, rfl⟩ | ⟨-, -, i, -, hx⟩ | ⟨-, -, -, rfl⟩ | ⟨-, -, rfl⟩ | ⟨-, -, rfl⟩ := step_mode_cases h
  · rfl
  · obtain ⟨-, -, hin⟩ := exec_port hx
    exact hin
  · rfl
  · rw [fillStep_eq]; rfl
  · obtain ⟨-, -, -, -, -, -, -, -, -, -, -, -, hin⟩ := serStep_frame s.popInput.edgeDefaults
    exact hin

/-- Two states with one control state step alike while the serializer runs. -/
theorem control_step {s t s' t' : State} (h : s.control = t.control) (hm : t.mode = .ser) (hr : s.nextInput.rst = false)
    (hr' : t.nextInput.rst = false) (hs : step s = .next s') (ht : step t = .next t') : s'.control = t'.control := by
  have hmode : s.mode = .ser := (congrArg State.mode h).trans hm
  have hstart : s.popInput.edgeDefaults.control = t.popInput.edgeDefaults.control :=
    congrArg (fun c : State => { c with portWe := false }) h
  rw [step_eq_serStep hs hr hmode, step_eq_serStep ht hr' hm, control_serStep, hstart, ← control_serStep]

/-- Over edges at which the serializer runs, the control state alone decides at which of them the port is written. -/
theorem control_run {s t : State} (e : Nat) {n : Nat} (h : s.control = t.control) (hr : noReset n s = true)
    (hr' : noReset n t = true) (hbusy : ∀ m, m < n → ∃ u, Sys2Proof.core.run m t = .next u ∧ u.mode = .ser) :
    (portWrites e n s).map Prod.fst = (portWrites e n t).map Prod.fst ∧
    ∃ u v, Sys2Proof.core.run n s = .next u ∧ Sys2Proof.core.run n t = .next v ∧ u.control = v.control := by
  induction n generalizing s t e with
  | zero => exact ⟨rfl, s, t, rfl, rfl, h⟩
  | succ n ih =>
    obtain ⟨s', hs⟩ := step_next s
    obtain ⟨t', ht⟩ := step_next t
    obtain ⟨u, hu, hm⟩ := hbusy 0 (Nat.succ_pos n)
    cases hu
    have hnext : s'.control = t'.control := control_step h hm (noReset_next hr).1 (noReset_next hr').1 hs ht
    have hwe : s'.portWe = t'.portWe := show s'.control.portWe = t'.control.portWe by rw [hnext]
    have hr₁ := noReset_of_inputs hr (step_inputs hs)
    have hr₂ := noReset_of_inputs hr' (step_inputs ht)
    obtain ⟨hedges, hruns⟩ := ih (e + 1) hnext hr₁ hr₂ fun m hmn => by
      obtain ⟨u, hu, hum⟩ := hbusy (m + 1) (Nat.succ_lt_succ hmn)
      exact ⟨u, (run_succ m ht).symm.trans hu, hum⟩
    rw [portWrites_succ e n hs, portWrites_succ e n ht, run_succ n hs, run_succ n ht, List.map_append, List.map_append, hedges,
      hwe]
    refine ⟨congrArg (· ++ _) ?_, hruns⟩
    split <;> rfl

/-- Two scans started with the same configuration have the same control state. -/
theorem control_of_started {R : Nat} {v v' : Byte} {s t s₀ t₀ : State} (hs : Started .scan v s s₀) (ht : Started .scan v' t t₀)
    (hv : AtVisit R 0 s₀) (hv' : AtVisit R 0 t₀) (hrep : s.repeatCount = t.repeatCount) (hrst : s.dlyRst = t.dlyRst)
    (hbit : s.dlyBit = t.dlyBit) : s₀.control = t₀.control := by
  simp only [State.control, hs.mode, ht.mode, hs.src, ht.src, hs.bit, ht.bit, hs.phase, ht.phase, hs.hold, ht.hold, hs.portWe,
    ht.portWe, hs.frame.repeatCount, ht.frame.repeatCount, hs.frame.dlyRst, ht.frame.dlyRst, hs.frame.dlyBit, ht.frame.dlyBit,
    hv.i, hv'.i, hv.k, hv'.k, hv.j, hv'.j, hrep, hrst, hbit]

/-- The state with no input to come. -/
def State.quiet (s : State) : State := { s with inputs := [] }

theorem noReset_quiet (n : Nat) (s : State) : noReset n s.quiet = true := by simp [noReset, State.quiet]

/-- With no input to come, the serializer is busy for all the edges of a scan. -/
theorem scan_busy_without_inputs {R : Nat} {s : State} (h : AtVisit R 0 s) (hR : R ≠ 0) (m : Nat)
    (hm : m < 512 * R * s.pulseEdges) :
    ∃ u, Sys2Proof.core.run m s.quiet = .next u ∧ u.mode = .ser := by
  have hquiet : AtVisit R 0 s.quiet :=
    ⟨h.mode, h.src, h.phase, h.bit, h.passes, h.i, h.k, h.j, h.value⟩
  obtain ⟨u, -, -, -, hstretch⟩ := scan_stretch 0 hquiet hR (Nat.le_refl _) (noReset_quiet _ s)
  exact hstretch.busy m (by rw [← scan_edges]; exact hm)

/-- Settles O49: after the accepting edges both scans have the control state of one scan without inputs, which is busy up to its end. -/
theorem refreshTimingIgnoresTheCells : Obligations.RefreshTimingIgnoresTheCells := by
  unfold Obligations.RefreshTimingIgnoresTheCells
  intro s t w w' rest rest' e n hn hm hm' hrep hrst hbit hi hi' hw hw' hr hr'
  obtain _ | n := n
  · exact ⟨rfl, s, t, rfl, rfl, hm.trans hm'.symm⟩
  by_cases hz : s.repeatCount = 0
  · obtain rfl : n = 0 := by simpa [hz] using hn
    have hz' : t.repeatCount = 0 := hrep ▸ hz
    rw [portWrites_refresh_of_zero e hm hz hi hw, portWrites_refresh_of_zero e hm' hz' hi' hw', run_one, run_one,
      step_refresh_of_zero hm hz hi hw, step_refresh_of_zero hm' hz' hi' hw']
    exact ⟨rfl, _, _, rfl, rfl, hm.trans hm'.symm⟩
  · obtain ⟨s₀, hs, hstart, hvisit⟩ := step_refresh_accepted hm hz hi hw
    obtain ⟨t₀, ht, hstart', hvisit'⟩ := step_refresh_accepted hm' (hrep ▸ hz) hi' hw'
    have hR : s.repeatCount.toNat ≠ 0 := fun h => hz (BitVec.eq_of_toNat_eq h)
    have hcontrol : s₀.control = t₀.control :=
      control_of_started hstart hstart' hvisit (by rw [hrep]; exact hvisit') hrep hrst hbit
    have hbusy (m : Nat) (hmn : m < n) : ∃ u, Sys2Proof.core.run m s₀.quiet = .next u ∧ u.mode = .ser :=
      scan_busy_without_inputs hvisit hR m (by rw [hstart.frame.pulseEdges]; omega)
    have hquiet := noReset_quiet n s₀
    obtain ⟨hedges, u, q, hu, hq, huq⟩ := control_run (e + 1) (s := s₀) (t := s₀.quiet) rfl (noReset_of_inputs hr hstart.inputs) hquiet hbusy
    obtain ⟨hedges', v, q', hv, hq', hvq⟩ :=
      control_run (e + 1) (s := t₀) (t := s₀.quiet) hcontrol.symm (noReset_of_inputs hr' hstart'.inputs) hquiet hbusy
    rw [hq] at hq'
    cases hq'
    rw [portWrites_succ e n hs, portWrites_succ e n ht, hstart.portWe, hstart'.portWe, run_succ n hs, run_succ n ht]
    refine ⟨hedges.trans hedges'.symm, u, v, hu, hv, ?_⟩
    show u.control.mode = v.control.mode
    rw [huq, hvq]

end Sys2Proof.Machine
